-- ==== Sys2Proof/Word.lean ====
section
/-! DEFINITION. The words that travel on the part's links: bytes of the shelf link, 16-bit and 32-bit fields of its
payloads (R177), 16-bit samples of the acquisition port (section 4.1), and the names of the two banks (section 0.6.1). -/

namespace Sys2Proof

/-- One byte of the shelf link (R166), a shot tag (R65), a frame tag. -/
abbrev Byte := BitVec 8

/-- A two-byte field (R177); a sample, 0 to 65535 lu (section 4.1). -/
abbrev Half := BitVec 16

/-- A four-byte field (R177); one bin sum of a bank (R74). -/
abbrev Word := BitVec 32

/-- The two trace banks, A and B (section 0.6.1). -/
inductive BankName where
  | a
  | b
  deriving DecidableEq, Repr

/-- One zone record as BASELINE_LOAD carries it (R178): end bin, start level, end level, end kind. -/
structure ZoneWords where
  endBin : Half
  startLevel : Half
  endLevel : Half
  endKind : Byte
  deriving DecidableEq, Repr

end Sys2Proof
end

