-- ==== Sys2Proof/Config.lean ====
section
/-! DEFINITION. What the part number fixes (sizes, ranges, lengths of timers that no setting holds) and the free
values, which the manual leaves open: opaque constants with no body, so nothing can be proved of what they are. -/

namespace Sys2Proof.Config

/-- Intake FIFO, in samples (section 4, R67). -/
def fifoCapacity : Nat := 32768

/-- Slots of the report queue (R151). -/
def reportSlots : Nat := 128

/-- Slots of one reservation (R153). -/
def reservation : Nat := 9

/-- What R39 and R153 add to occupancy and reserved slots before comparing with the queue's size: the reservation of 9
and the 2 slots left for edge records. -/
def grantMargin : Nat := 11

/-- Entries of the re-check queue (R146). -/
def recheckSlots : Nat := 32

/-- Zone records of the pool (R98). -/
def poolSize : Nat := 2048

/-- Checked frames the command queue holds (R168). -/
def commandSlots : Nat := 4

/-- Levels in one EXPORT frame (R89). -/
def exportLevels : Nat := 448

/-- Records in one REPORT frame (R156) and the most a DRAIN takes (R157). -/
def reportRecords : Nat := 8

/-- Seconds of a week (R19). -/
def weekSeconds : Nat := 604800

/-- REFCLK edges of one second event (R19). -/
def edgesPerSecond : Nat := 32768

/-- The greatest value of a 16-bit count that stops there (R9, R36, R73, R154, R167). -/
def countLimit : Nat := 65535

/-- FREE VALUE (log 6). The whole seconds of close grace remaining that the `n`-th free value of the run shows to a
CLOCK_READ (R23): the core clock that runs the timer has no row in the table. The reader bounds it by the timer's length. -/
opaque graceRemaining : Nat → Nat

/-- FREE VALUE (log 7). Whether CYCLE_END is put before the CLOSED edge record when one event releases both: the
manual says that either may stand first (R13, R30). -/
opaque cycleEndFirst : Nat → Bool

end Sys2Proof.Config
end

