-- ==== Sys2Proof/Syntax.lean ====
section
/-! DEFINITION. The commands of the part: one constructor for each row of spec/opcode_table.json. A shelf command
carries the tag of its frame and the fields of its payload in the widths of R178; every other row is an event, with
what the event carries. -/

namespace Sys2Proof

/-- The rows of the table of operations and events. -/
inductive Instr where
  /-- PLAN_WRITE (R2): span, enabled, selector port, group. -/
  | planWrite (tag span enabled port group : Byte)
  /-- PLAN_READ (R4): span. -/
  | planRead (tag span : Byte)
  /-- PLAN_SEEK (R6): index. -/
  | planSeek (tag index : Byte)
  /-- GROUP_STAGE (R16): group, then field identifier and value pairs. -/
  | groupStage (tag group : Byte) (pairs : List (Byte × Word))
  /-- GROUP_COMMIT (R17): group numbers. -/
  | groupCommit (tag : Byte) (groups : List Byte)
  /-- GROUP_READ (R18): group. -/
  | groupRead (tag group : Byte)
  /-- CLOCK_SET (R22): day, hour, minute, second. -/
  | clockSet (tag day hour minute second : Byte)
  /-- CLOCK_STEP (R24): seconds in two's complement. -/
  | clockStep (tag : Byte) (seconds : Half)
  /-- CLOCK_READ (R23). -/
  | clockRead (tag : Byte)
  /-- WINDOW_SET (R26): day mask, open time, close time. -/
  | windowSet (tag dayMask openHour openMinute closeHour closeMinute : Byte)
  /-- WINDOW_MODE (R28): mode. -/
  | windowMode (tag mode : Byte)
  /-- TEST_NOW (R57, R58): span, retain. -/
  | testNow (tag span retain : Byte)
  /-- RETAIN_REQUEST (R86): span. -/
  | retainRequest (tag span : Byte)
  /-- TRACE_EXPORT (R88): start bin, count. -/
  | traceExport (tag : Byte) (start count : Half)
  /-- REANALYSE (R91): profile. -/
  | reanalyse (tag profile : Byte)
  /-- BANK_RELEASE (R93). -/
  | bankRelease (tag : Byte)
  /-- BASELINE_LOAD (R101 to R104): span, class, bin length, launch bin, E, zones. -/
  | baselineLoad (tag span cls binLength : Byte) (launch endBin : Half) (zones : List ZoneWords)
  /-- BASELINE_DROP (R106): span. -/
  | baselineDrop (tag span : Byte)
  /-- BASELINE_READ (R107): span. -/
  | baselineRead (tag span : Byte)
  /-- PROFILE_WRITE (R113): profile number and the ten fields. -/
  | profileWrite (tag profile : Byte) (floor : Half) (persistence stepGap : Byte) (bend grown breakDrop : Half)
      (tolerance blind confirm clearCount : Byte)
  /-- PROFILE_READ (R114): profile. -/
  | profileRead (tag profile : Byte)
  /-- CONDITION_READ (R144): span. -/
  | conditionRead (tag span : Byte)
  /-- CONDITION_CLEAR (R145): span. -/
  | conditionClear (tag span : Byte)
  /-- DRAIN (R157): number of records. -/
  | drain (tag n : Byte)
  /-- NOTICE_READ (R163). -/
  | noticeRead (tag : Byte)
  /-- NOTICE_ACK (R163): kind numbers. -/
  | noticeAck (tag : Byte) (kinds : List Byte)
  /-- NOTICE_MASK (R164): pairs of kind number and action. -/
  | noticeMask (tag : Byte) (pairs : List (Byte × Byte))
  /-- SETTINGS_WRITE (R173): pairs of identifier and signed value. -/
  | settingsWrite (tag : Byte) (pairs : List (Byte × Half))
  /-- SETTINGS_READ (R173). -/
  | settingsRead (tag : Byte)
  /-- STATUS_READ (R174). -/
  | statusRead (tag : Byte)
  /-- RESTART (R175). -/
  | restart (tag : Byte)
  /-- FULL_RESET (R175). -/
  | fullReset (tag : Byte)
  /-- UNKNOWN_COMMAND (R169, cases 1 and 2): a frame whose payload is empty or whose code names no command. -/
  | unknownCommand (tag : Byte) (payload : List Byte)
  /-- POWER_ON (R176). -/
  | powerOn
  /-- RESET_INPUT (R176). -/
  | resetInput
  /-- COMMAND_FRAME (R166, R167): bytes received on the shelf link. -/
  | commandFrame (bytes : List Byte)
  /-- FRAME_SENT (R171). -/
  | frameSent
  /-- SECOND_EVENT (R19). -/
  | secondEvent
  /-- REFERENCE_LOST (R20). -/
  | referenceLost
  /-- REFERENCE_PRESENT (R20). -/
  | referencePresent
  /-- GRACE_TIMER_EXPIRY (R31). -/
  | graceTimerExpiry
  /-- SET_REPLY (R42): the port the reply names. -/
  | setReply (port : Byte)
  /-- FAULT_REPLY (R42). -/
  | faultReply
  /-- SELECTOR_TIMER_EXPIRY (R42). -/
  | selectorTimerExpiry
  /-- SETTLE_TIMER_EXPIRY (R45). -/
  | settleTimerExpiry
  /-- HOT_HOLD_TIMER_EXPIRY (R52). -/
  | hotHoldTimerExpiry
  /-- HEADER_WORD (R68): shot tag, bin count of the block. -/
  | headerWord (tag : Byte) (binCount : Half)
  /-- SAMPLE_WORD (R69): one level. -/
  | sampleWord (level : Half)
  /-- TRAILER_WORD (R70): saturated flag. -/
  | trailerWord (saturated : Bool)
  /-- STATUS_WORD (R77): front-end temperature, whole degrees Celsius. -/
  | statusWord (temperature : Int)
  /-- SHOT_TIMER_EXPIRY (R72): the tag of the outstanding entry. -/
  | shotTimerExpiry (tag : Byte)
  /-- SAMPLE_SUMMED (R74). -/
  | sampleSummed
  /-- ACCUMULATION_COMPLETE (R74). -/
  | accumulationComplete
  /-- SWEEP_START (R39). -/
  | sweepStart
  /-- SWEEP_COMPLETE (R51). -/
  | sweepComplete
  /-- CLOSING_ACTIONS (R55). -/
  | closingActions
  /-- ANALYSIS_TAKING (R116). -/
  | analysisTaking
  /-- ANALYSIS_COMPLETION (R131). -/
  | analysisCompletion
  /-- REANALYSIS_COMPLETION (R132). -/
  | reanalysisCompletion
  /-- HOLD_TIMER_EXPIRY (R87): the bank whose timer expires. -/
  | holdTimerExpiry (bank : BankName)
  deriving DecidableEq, Repr

end Sys2Proof
end

