-- ==== Sys2Proof/WellFormed.lean ====
section
/-! DEFINITION. Which commands can arrive at all: a shelf command fits a frame (at most 1024 payload bytes, a count in
one byte, R167 and R178), UNKNOWN_COMMAND names no command (R169), a header word carries a block's bin count (section
4.1), a SET reply names a selector port (section 0.6.1), a status word carries what the words of the port can hold. -/

namespace Sys2Proof

/-- The command codes of the table of R178. -/
def commandCodes : List Byte :=
  [0x01, 0x02, 0x03, 0x10, 0x11, 0x12, 0x20, 0x21, 0x22, 0x23, 0x24, 0x30, 0x40, 0x41, 0x42, 0x43] ++
  [0x50, 0x51, 0x52, 0x60, 0x61, 0x70, 0x71, 0x80, 0x81, 0x82, 0x83, 0x90, 0x91, 0x92, 0x93, 0x94]

/-- The payload names no command of the part: it is empty, or its first byte is no command code (R169). -/
def namesNoCommand : List Byte → Bool
  | [] => true
  | code :: _ => !commandCodes.contains code

/-- A command that the outside, or the part's own work, can bring about. -/
def Instr.wellFormed : Instr → Bool
  | .groupStage _ _ pairs => decide (3 + 5 * pairs.length ≤ 1024)
  | .groupCommit _ groups => decide (groups.length ≤ 255)
  | .baselineLoad _ _ _ _ _ _ zones => decide (9 + 7 * zones.length ≤ 1024)
  | .noticeAck _ kinds => decide (kinds.length ≤ 255)
  | .noticeMask _ pairs => decide (pairs.length ≤ 255)
  | .settingsWrite _ pairs => decide (pairs.length ≤ 255)
  | .unknownCommand _ payload => decide (payload.length ≤ 1024) && namesNoCommand payload
  | .headerWord _ binCount => decide (256 ≤ binCount.toNat) && decide (binCount.toNat ≤ 16384)
  | .setReply port => decide (port.toNat < 240)
  | .planWrite _ _ _ _ _ | .planRead _ _ | .planSeek _ _ | .groupRead _ _ | .clockSet _ _ _ _ _ | .clockStep _ _
  | .clockRead _ | .windowSet _ _ _ _ _ _ | .windowMode _ _ | .testNow _ _ _ | .retainRequest _ _
  | .traceExport _ _ _ | .reanalyse _ _ | .bankRelease _ | .baselineDrop _ _ | .baselineRead _ _
  | .profileWrite _ _ _ _ _ _ _ _ _ _ _ _ | .profileRead _ _ | .conditionRead _ _ | .conditionClear _ _
  | .drain _ _ | .noticeRead _ | .settingsRead _ | .statusRead _ | .restart _ | .fullReset _
  | .powerOn | .resetInput | .commandFrame _ | .frameSent | .secondEvent | .referenceLost | .referencePresent
  | .graceTimerExpiry | .faultReply | .selectorTimerExpiry | .settleTimerExpiry | .hotHoldTimerExpiry
  | .sampleWord _ | .trailerWord _ | .statusWord _ | .shotTimerExpiry _ | .sampleSummed | .accumulationComplete
  | .sweepStart | .sweepComplete | .closingActions | .analysisTaking | .analysisCompletion
  | .reanalysisCompletion | .holdTimerExpiry _ => true

end Sys2Proof
end

