-- ==== Sys2Proof/Decode.lean ====
section
/-! DEFINITION. The payload layouts of the shelf link's commands (R178): the names with their codes, the fields each
payload carries, the decoder the dispatcher uses (R169, cases 1 to 3) and the encoder written from the same tables; and
`decodeTableWord`, which answers none: no row of the table gives bits. -/

namespace Sys2Proof

/-- The names of the commands of the table of R178. -/
inductive CommandName where
  | planWrite | planRead | planSeek | groupStage | groupCommit | groupRead | clockSet | clockStep | clockRead
  | windowSet | windowMode | testNow | retainRequest | traceExport | reanalyse | bankRelease | baselineLoad
  | baselineDrop | baselineRead | profileWrite | profileRead | conditionRead | conditionClear | drain | noticeRead
  | noticeAck | noticeMask | settingsWrite | settingsRead | statusRead | restart | fullReset
  deriving DecidableEq, Repr

/-- What a command's payload carries beyond its code, with the field widths of R178. -/
inductive LinkCommand where
  | planWrite (span enabled port group : Byte)
  | planRead (span : Byte)
  | planSeek (index : Byte)
  | groupStage (group : Byte) (pairs : List (Byte × Word))
  | groupCommit (groups : List Byte)
  | groupRead (group : Byte)
  | clockSet (day hour minute second : Byte)
  | clockStep (seconds : Half)
  | clockRead
  | windowSet (dayMask openHour openMinute closeHour closeMinute : Byte)
  | windowMode (mode : Byte)
  | testNow (span retain : Byte)
  | retainRequest (span : Byte)
  | traceExport (start count : Half)
  | reanalyse (profile : Byte)
  | bankRelease
  | baselineLoad (span cls binLength : Byte) (launch endBin : Half) (zones : List ZoneWords)
  | baselineDrop (span : Byte)
  | baselineRead (span : Byte)
  | profileWrite (profile : Byte) (floor : Half) (persistence stepGap : Byte) (bend grown breakDrop : Half)
      (tolerance blind confirm clearCount : Byte)
  | profileRead (profile : Byte)
  | conditionRead (span : Byte)
  | conditionClear (span : Byte)
  | drain (n : Byte)
  | noticeRead
  | noticeAck (kinds : List Byte)
  | noticeMask (pairs : List (Byte × Byte))
  | settingsWrite (pairs : List (Byte × Half))
  | settingsRead
  | statusRead
  | restart
  | fullReset
  deriving DecidableEq, Repr

/-- What the dispatcher finds in a payload (R169): a command, a wrong length, or a code that names no command. -/
inductive Decoded where
  | command (c : LinkCommand)
  | malformed
  | unknown
  deriving DecidableEq, Repr

/-- The code of each command (R178). -/
def CommandName.code : CommandName → Byte
  | .planWrite => 0x01
  | .planRead => 0x02
  | .planSeek => 0x03
  | .groupStage => 0x10
  | .groupCommit => 0x11
  | .groupRead => 0x12
  | .clockSet => 0x20
  | .clockStep => 0x21
  | .clockRead => 0x22
  | .windowSet => 0x23
  | .windowMode => 0x24
  | .testNow => 0x30
  | .retainRequest => 0x40
  | .traceExport => 0x41
  | .reanalyse => 0x42
  | .bankRelease => 0x43
  | .baselineLoad => 0x50
  | .baselineDrop => 0x51
  | .baselineRead => 0x52
  | .profileWrite => 0x60
  | .profileRead => 0x61
  | .conditionRead => 0x70
  | .conditionClear => 0x71
  | .drain => 0x80
  | .noticeRead => 0x81
  | .noticeAck => 0x82
  | .noticeMask => 0x83
  | .settingsWrite => 0x90
  | .settingsRead => 0x91
  | .statusRead => 0x92
  | .restart => 0x93
  | .fullReset => 0x94

/-- Every command of the table of R178. -/
def CommandName.all : List CommandName :=
  [.planWrite, .planRead, .planSeek, .groupStage, .groupCommit, .groupRead, .clockSet, .clockStep, .clockRead, .windowSet,
    .windowMode, .testNow, .retainRequest, .traceExport, .reanalyse, .bankRelease, .baselineLoad, .baselineDrop,
    .baselineRead, .profileWrite, .profileRead, .conditionRead, .conditionClear, .drain, .noticeRead, .noticeAck,
    .noticeMask, .settingsWrite, .settingsRead, .statusRead, .restart, .fullReset]

/-- The command a code names, if any (R169, case 2). -/
def CommandName.ofCode (code : Byte) : Option CommandName :=
  CommandName.all.find? fun n => n.code == code

/-- A two-byte field, high byte first (R177). -/
def halfBytes (h : Half) : List Byte :=
  [h.extractLsb' 8 8, h.extractLsb' 0 8]

/-- A four-byte field, most significant byte first (R177). -/
def wordBytes (w : Word) : List Byte :=
  [w.extractLsb' 24 8, w.extractLsb' 16 8, w.extractLsb' 8 8, w.extractLsb' 0 8]

/-- The two-byte field of a high and a low byte (R177). -/
def halfOf (hi lo : Byte) : Half :=
  hi ++ lo

/-- The four-byte field of four bytes, most significant first (R177). -/
def wordOf (b3 b2 b1 b0 : Byte) : Word :=
  b3 ++ b2 ++ b1 ++ b0

/-- A list's count byte (R178). -/
def countByte {α : Type} (l : List α) : Byte :=
  BitVec.ofNat 8 l.length

/-- Pairs of GROUP_STAGE: field identifier (1), value (4) (R178). -/
def stagePairBytes : List (Byte × Word) → List Byte
  | [] => []
  | (field, value) :: rest => field :: (wordBytes value ++ stagePairBytes rest)

/-- The pairs of GROUP_STAGE back from their bytes. -/
def stagePairsOf : List Byte → Option (List (Byte × Word))
  | [] => some []
  | field :: b3 :: b2 :: b1 :: b0 :: rest => (stagePairsOf rest).map ((field, wordOf b3 b2 b1 b0) :: ·)
  | _ => none

/-- Pairs of SETTINGS_WRITE: identifier (1), signed value (2) (R178). -/
def settingPairBytes : List (Byte × Half) → List Byte
  | [] => []
  | (ident, value) :: rest => ident :: (halfBytes value ++ settingPairBytes rest)

/-- The pairs of SETTINGS_WRITE back from their bytes. -/
def settingPairsOf : List Byte → Option (List (Byte × Half))
  | [] => some []
  | ident :: hi :: lo :: rest => (settingPairsOf rest).map ((ident, halfOf hi lo) :: ·)
  | _ => none

/-- Pairs of NOTICE_MASK: kind number (1), action (1) (R178). -/
def maskPairBytes : List (Byte × Byte) → List Byte
  | [] => []
  | (kind, action) :: rest => kind :: action :: maskPairBytes rest

/-- The pairs of NOTICE_MASK back from their bytes. -/
def maskPairsOf : List Byte → Option (List (Byte × Byte))
  | [] => some []
  | kind :: action :: rest => (maskPairsOf rest).map ((kind, action) :: ·)
  | _ => none

/-- Zone records: end bin (2), start level (2), end level (2), end kind (1) (R178). -/
def zoneBytes : List ZoneWords → List Byte
  | [] => []
  | z :: rest =>
    halfBytes z.endBin ++ (halfBytes z.startLevel ++ (halfBytes z.endLevel ++ (z.endKind :: zoneBytes rest)))

/-- The zone records back from their bytes. -/
def zonesOf : List Byte → Option (List ZoneWords)
  | [] => some []
  | e1 :: e0 :: s1 :: s0 :: l1 :: l0 :: kind :: rest =>
    (zonesOf rest).map (⟨halfOf e1 e0, halfOf s1 s0, halfOf l1 l0, kind⟩ :: ·)
  | _ => none

/-- A list is taken when its length is the one the payload's count byte declares (R169, case 3). -/
def ofCount {α : Type} (n : Byte) : Option (List α) → Option (List α)
  | some l => if l.length = n.toNat then some l else none
  | none => none

/-- A payload with no field after its code. -/
def noFields (c : LinkCommand) : List Byte → Option LinkCommand
  | [] => some c
  | _ => none

/-- A payload with one byte after its code. -/
def oneField (f : Byte → LinkCommand) : List Byte → Option LinkCommand
  | [x] => some (f x)
  | _ => none

/-- A payload with two bytes after its code. -/
def twoFields (f : Byte → Byte → LinkCommand) : List Byte → Option LinkCommand
  | [x, y] => some (f x y)
  | _ => none

/-- A payload with four bytes after its code. -/
def fourFields (f : Byte → Byte → Byte → Byte → LinkCommand) : List Byte → Option LinkCommand
  | [x, y, z, u] => some (f x y z u)
  | _ => none

/-- A payload with five bytes after its code. -/
def fiveFields (f : Byte → Byte → Byte → Byte → Byte → LinkCommand) : List Byte → Option LinkCommand
  | [x, y, z, u, v] => some (f x y z u v)
  | _ => none

/-- A payload that is a count byte and a list (R178: GROUP_COMMIT, NOTICE_ACK, NOTICE_MASK, SETTINGS_WRITE). -/
def countedFields {α : Type} (items : List Byte → Option (List α)) (f : List α → LinkCommand) :
    List Byte → Option LinkCommand
  | [] => none
  | n :: rest => (ofCount n (items rest)).map f

/-- GROUP_STAGE: group, count, pairs (R178). -/
def groupStageFields : List Byte → Option LinkCommand
  | group :: n :: rest => (ofCount n (stagePairsOf rest)).map (.groupStage group)
  | _ => none

/-- BASELINE_LOAD: span, class, bin length, launch bin (2), E (2), zone count, zones (R178). -/
def baselineLoadFields : List Byte → Option LinkCommand
  | span :: cls :: len :: l1 :: l0 :: e1 :: e0 :: z :: rest =>
    (ofCount z (zonesOf rest)).map (.baselineLoad span cls len (halfOf l1 l0) (halfOf e1 e0))
  | _ => none

/-- PROFILE_WRITE: the profile number and its ten fields (R178). -/
def profileWriteFields : List Byte → Option LinkCommand
  | [profile, f1, f0, p, g, b1, b0, g1, g0, d1, d0, tol, blind, confirm, clear] =>
    some (.profileWrite profile (halfOf f1 f0) p g (halfOf b1 b0) (halfOf g1 g0) (halfOf d1 d0) tol blind confirm clear)
  | _ => none

/-- The fields of a command's payload after its code; none when the length is not the layout's (R169, case 3; R178). -/
def decodeFields : CommandName → List Byte → Option LinkCommand
  | .planWrite => fourFields .planWrite
  | .planRead => oneField .planRead
  | .planSeek => oneField .planSeek
  | .groupStage => groupStageFields
  | .groupCommit => countedFields some .groupCommit
  | .groupRead => oneField .groupRead
  | .clockSet => fourFields .clockSet
  | .clockStep => twoFields fun hi lo => .clockStep (halfOf hi lo)
  | .clockRead => noFields .clockRead
  | .windowSet => fiveFields .windowSet
  | .windowMode => oneField .windowMode
  | .testNow => twoFields .testNow
  | .retainRequest => oneField .retainRequest
  | .traceExport => fourFields fun s1 s0 c1 c0 => .traceExport (halfOf s1 s0) (halfOf c1 c0)
  | .reanalyse => oneField .reanalyse
  | .bankRelease => noFields .bankRelease
  | .baselineLoad => baselineLoadFields
  | .baselineDrop => oneField .baselineDrop
  | .baselineRead => oneField .baselineRead
  | .profileWrite => profileWriteFields
  | .profileRead => oneField .profileRead
  | .conditionRead => oneField .conditionRead
  | .conditionClear => oneField .conditionClear
  | .drain => oneField .drain
  | .noticeRead => noFields .noticeRead
  | .noticeAck => countedFields some .noticeAck
  | .noticeMask => countedFields maskPairsOf .noticeMask
  | .settingsWrite => countedFields settingPairsOf .settingsWrite
  | .settingsRead => noFields .settingsRead
  | .statusRead => noFields .statusRead
  | .restart => noFields .restart
  | .fullReset => noFields .fullReset

/-- The dispatcher's reading of a payload, cases 1 to 3 of R169 in their order. -/
def decodePayload : List Byte → Decoded
  | [] => .malformed
  | code :: fields =>
    match CommandName.ofCode code with
    | none => .unknown
    | some name =>
      match decodeFields name fields with
      | none => .malformed
      | some c => .command c

/-- The name under which a command travels. -/
def LinkCommand.name : LinkCommand → CommandName
  | .planWrite _ _ _ _ => .planWrite
  | .planRead _ => .planRead
  | .planSeek _ => .planSeek
  | .groupStage _ _ => .groupStage
  | .groupCommit _ => .groupCommit
  | .groupRead _ => .groupRead
  | .clockSet _ _ _ _ => .clockSet
  | .clockStep _ => .clockStep
  | .clockRead => .clockRead
  | .windowSet _ _ _ _ _ => .windowSet
  | .windowMode _ => .windowMode
  | .testNow _ _ => .testNow
  | .retainRequest _ => .retainRequest
  | .traceExport _ _ => .traceExport
  | .reanalyse _ => .reanalyse
  | .bankRelease => .bankRelease
  | .baselineLoad _ _ _ _ _ _ => .baselineLoad
  | .baselineDrop _ => .baselineDrop
  | .baselineRead _ => .baselineRead
  | .profileWrite _ _ _ _ _ _ _ _ _ _ _ => .profileWrite
  | .profileRead _ => .profileRead
  | .conditionRead _ => .conditionRead
  | .conditionClear _ => .conditionClear
  | .drain _ => .drain
  | .noticeRead => .noticeRead
  | .noticeAck _ => .noticeAck
  | .noticeMask _ => .noticeMask
  | .settingsWrite _ => .settingsWrite
  | .settingsRead => .settingsRead
  | .statusRead => .statusRead
  | .restart => .restart
  | .fullReset => .fullReset

/-- The bytes after the code, in the order and widths of R178. -/
def LinkCommand.fieldBytes : LinkCommand → List Byte
  | .planWrite span enabled port group => [span, enabled, port, group]
  | .planRead span => [span]
  | .planSeek index => [index]
  | .groupStage group pairs => group :: countByte pairs :: stagePairBytes pairs
  | .groupCommit groups => countByte groups :: groups
  | .groupRead group => [group]
  | .clockSet day hour minute second => [day, hour, minute, second]
  | .clockStep seconds => halfBytes seconds
  | .clockRead => []
  | .windowSet mask oh om ch cm => [mask, oh, om, ch, cm]
  | .windowMode mode => [mode]
  | .testNow span retain => [span, retain]
  | .retainRequest span => [span]
  | .traceExport start count => halfBytes start ++ halfBytes count
  | .reanalyse profile => [profile]
  | .bankRelease => []
  | .baselineLoad span cls len launch e zones =>
    span :: cls :: len :: (halfBytes launch ++ (halfBytes e ++ (countByte zones :: zoneBytes zones)))
  | .baselineDrop span => [span]
  | .baselineRead span => [span]
  | .profileWrite profile floor p g bend grown drop tol blind confirm clear =>
    profile :: (halfBytes floor ++ (p :: g :: (halfBytes bend ++ (halfBytes grown ++ (halfBytes drop ++
      [tol, blind, confirm, clear])))))
  | .profileRead profile => [profile]
  | .conditionRead span => [span]
  | .conditionClear span => [span]
  | .drain n => [n]
  | .noticeRead => []
  | .noticeAck kinds => countByte kinds :: kinds
  | .noticeMask pairs => countByte pairs :: maskPairBytes pairs
  | .settingsWrite pairs => countByte pairs :: settingPairBytes pairs
  | .settingsRead => []
  | .statusRead => []
  | .restart => []
  | .fullReset => []

/-- The payload of a command (R178): its code, then its fields. -/
def encodePayload (c : LinkCommand) : List Byte :=
  c.name.code :: c.fieldBytes

/-- The tag and the command of a shelf command's row; none for the rows that are not one. -/
def Instr.asLink : Instr → Option (Byte × LinkCommand)
  | .planWrite tag span enabled port group => some (tag, .planWrite span enabled port group)
  | .planRead tag span => some (tag, .planRead span)
  | .planSeek tag index => some (tag, .planSeek index)
  | .groupStage tag group pairs => some (tag, .groupStage group pairs)
  | .groupCommit tag groups => some (tag, .groupCommit groups)
  | .groupRead tag group => some (tag, .groupRead group)
  | .clockSet tag day hour minute second => some (tag, .clockSet day hour minute second)
  | .clockStep tag seconds => some (tag, .clockStep seconds)
  | .clockRead tag => some (tag, .clockRead)
  | .windowSet tag mask oh om ch cm => some (tag, .windowSet mask oh om ch cm)
  | .windowMode tag mode => some (tag, .windowMode mode)
  | .testNow tag span retain => some (tag, .testNow span retain)
  | .retainRequest tag span => some (tag, .retainRequest span)
  | .traceExport tag start count => some (tag, .traceExport start count)
  | .reanalyse tag profile => some (tag, .reanalyse profile)
  | .bankRelease tag => some (tag, .bankRelease)
  | .baselineLoad tag span cls len launch e zones => some (tag, .baselineLoad span cls len launch e zones)
  | .baselineDrop tag span => some (tag, .baselineDrop span)
  | .baselineRead tag span => some (tag, .baselineRead span)
  | .profileWrite tag profile floor p g bend grown drop tol blind confirm clear =>
    some (tag, .profileWrite profile floor p g bend grown drop tol blind confirm clear)
  | .profileRead tag profile => some (tag, .profileRead profile)
  | .conditionRead tag span => some (tag, .conditionRead span)
  | .conditionClear tag span => some (tag, .conditionClear span)
  | .drain tag n => some (tag, .drain n)
  | .noticeRead tag => some (tag, .noticeRead)
  | .noticeAck tag kinds => some (tag, .noticeAck kinds)
  | .noticeMask tag pairs => some (tag, .noticeMask pairs)
  | .settingsWrite tag pairs => some (tag, .settingsWrite pairs)
  | .settingsRead tag => some (tag, .settingsRead)
  | .statusRead tag => some (tag, .statusRead)
  | .restart tag => some (tag, .restart)
  | .fullReset tag => some (tag, .fullReset)
  | .unknownCommand _ _ | .powerOn | .resetInput | .commandFrame _ | .frameSent | .secondEvent | .referenceLost
  | .referencePresent | .graceTimerExpiry | .setReply _ | .faultReply | .selectorTimerExpiry | .settleTimerExpiry
  | .hotHoldTimerExpiry | .headerWord _ _ | .sampleWord _ | .trailerWord _ | .statusWord _ | .shotTimerExpiry _
  | .sampleSummed | .accumulationComplete | .sweepStart | .sweepComplete | .closingActions | .analysisTaking
  | .analysisCompletion | .reanalysisCompletion | .holdTimerExpiry _ => none

/-- A row of the table that a word of bits spells: none, since no row of the table gives bits (98_reader.md counts 60
rows and 0 with fixed bits). -/
def decodeTableWord (_nbits _w : Nat) : Option Instr :=
  none

end Sys2Proof
end

