-- ==== Sys2Proof/Machine/State.lean ====
section
/-! DEFINITION. The state of the part, block by block (00_scope.md 0.3), as plain data, and the machine right after
power-on. A span, a selector port, a group, a profile and a pulse class are Fin types, so a number outside its range
cannot be held; other numbers are Nat, and Safety.lean states their ranges. -/

namespace Sys2Proof.Machine

/-- A span number, 0 to 191 (section 0.6.1). -/
abbrev Span := Fin 192

/-- A selector port, 0 to 239 (section 0.6.1). -/
abbrev SelPort := Fin 240

/-- A sweep group, 0 to 7 (section 1.4). -/
abbrev GroupNo := Fin 8

/-- A threshold profile number, 0 to 7 (section 7.1). -/
abbrev ProfileNo := Fin 8

/-- A pulse class, 0 to 5 (section 0.6.5). -/
abbrev PulseClass := Fin 6

/-! ### Sweep plan and groups (chapter 1) -/

/-- A plan entry (R1). -/
structure PlanEntry where
  enabled : Bool
  port : SelPort
  group : GroupNo
  deriving DecidableEq, Repr

/-- The nine fields of a set of group settings (section 1.4). -/
structure GroupSettings where
  baseClass : PulseClass
  maxClass : PulseClass
  binCount : Nat
  binLength : Nat
  shotCount : Nat
  settleTime : Nat
  rejectLimit : Nat
  litLevel : Nat
  profile : ProfileNo
  deriving DecidableEq, Repr

/-- A sweep group: live set, pending set, staged mark (R15). -/
structure Group where
  live : GroupSettings
  pending : GroupSettings
  staged : Bool
  deriving DecidableEq, Repr

/-- Why a cycle ended (R9). -/
inductive CycleReason where
  | wrap
  | close
  deriving DecidableEq, Repr

/-- A cycle record (R9) less what only an ENDING one has. -/
structure CycleRecord where
  number : Nat
  start : Span
  planStarted : Nat
  planEnded : Nat
  extraStarted : Nat
  extraEnded : Nat
  deriving DecidableEq, Repr

/-- An ENDING cycle record: the record with its reason and its not-reached count (R9). -/
structure EndingCycle where
  cycle : CycleRecord
  reason : CycleReason
  notReached : Nat
  deriving DecidableEq, Repr

/-- The sweep plan block. -/
structure Plan where
  entries : Vector PlanEntry 192
  cursor : Span
  active : Option CycleRecord
  ending : List EndingCycle
  lastNumber : Nat
  groups : Vector Group 8
  deriving DecidableEq, Repr

/-! ### Window clock (chapter 2) -/

/-- Time of week (section 0.6.6). -/
structure TimeOfWeek where
  day : Fin 7
  hour : Fin 24
  minute : Fin 60
  second : Fin 60
  deriving DecidableEq, Repr

/-- Clock integrity (R21). -/
inductive Integrity where
  | invalid
  | valid
  deriving DecidableEq, Repr

/-- State of the reference monitor (R20). -/
inductive Reference where
  | present
  | lost
  deriving DecidableEq, Repr

/-- The window schedule (R26): bit d of the mask marks day d. -/
structure Schedule where
  dayMask : BitVec 7
  openHour : Fin 24
  openMinute : Fin 60
  closeHour : Fin 24
  closeMinute : Fin 60
  deriving DecidableEq, Repr

/-- The window mode (R28). -/
inductive WindowMode where
  | schedule
  | forcedOpen
  | forcedClosed
  deriving DecidableEq, Repr

/-- The window state (section 2.4). -/
inductive WindowState where
  | closed
  | opened
  | closing
  deriving DecidableEq, Repr

/-- The cause of a window edge (R33). -/
inductive EdgeCause where
  | matched
  | forced
  | clockLost
  | stepped
  deriving DecidableEq, Repr

/-- The edge of a WINDOW_EDGE record (R33). -/
inductive Edge where
  | opened
  | closed
  deriving DecidableEq, Repr

/-- The close grace timer (R31): stopped, running with the length it started with (s), or expired in this CLOSING. -/
inductive GraceTimer where
  | stopped
  | running (length : Nat)
  | expired
  deriving DecidableEq, Repr

/-- The window clock block (R35). -/
structure Window where
  time : TimeOfWeek
  divider : Nat
  integrity : Integrity
  reference : Reference
  schedule : Schedule
  mode : WindowMode
  state : WindowState
  grace : GraceTimer
  graceSetting : Nat
  closeCause : Option EdgeCause
  deriving DecidableEq, Repr

/-! ### Sweep engine (chapter 3) -/

/-- The engine's states, in the order of chapter 3's table. -/
inductive EngineState where
  | idle
  | waiting
  | selecting
  | settling
  | darkCheck
  | firing
  | hotHold
  | draining
  deriving DecidableEq, Repr

/-- Outcomes the engine decides (section 3.6). -/
inductive EngineOutcome where
  | lit
  | noPort
  | mute
  | hot
  | cut
  | preempted
  deriving DecidableEq, Repr

/-- The reason of a sweep (R37). -/
inductive SweepReason where
  | plan
  | confirm
  | escalate
  | retry
  | onDemand
  deriving DecidableEq, Repr

/-- How a sweep is counted in its cycle (R12, R37). -/
inductive CountedAs where
  | plan
  | extra
  deriving DecidableEq, Repr

/-- The sweep context (section 3.1). -/
structure SweepContext where
  span : Span
  reason : SweepReason
  countedAs : CountedAs
  cls : PulseClass
  port : SelPort
  settings : GroupSettings
  generation : Byte
  cycle : Option Nat
  retain : Bool
  accepted : Nat
  rejected : Nat
  lost : Nat
  consecutiveLost : Nat
  bank : BankName
  deriving DecidableEq, Repr

/-- The selector state (R42). -/
inductive Selector where
  | unknown
  | moving (port : SelPort)
  | atPort (port : SelPort) (settled : Bool)
  deriving DecidableEq, Repr

/-- The sweep engine block. The context of the sweep it holds is the context of bank `bank` (R36: they are one record);
`outcome` is present while the engine is DRAINING (R53). A timer is `some length` in ms while it runs. -/
structure Engine where
  state : EngineState
  bank : Option BankName
  outcome : Option EngineOutcome
  onDemand : Option Span
  selector : Selector
  selectorTimer : Option Nat
  settleTimer : Option Nat
  hotHoldTimer : Bool
  selectorTimeout : Nat
  deriving DecidableEq, Repr

/-! ### Acquisition port (chapter 4) -/

/-- An entry of the outstanding-shot list (R66). Its 20 ms shot timer runs exactly while the entry is listed. -/
structure Shot where
  tag : Byte
  bins : Nat
  dark : Bool
  discard : Bool
  deriving DecidableEq, Repr

/-- The block now arriving for an outstanding shot (R68, R69). -/
structure OpenBlock where
  tag : Byte
  headerBins : Nat
  count : Nat
  overLength : Bool
  darkSum : Nat
  deriving DecidableEq, Repr

/-- The intake state (section 4.3). -/
inductive Intake where
  | noBlock
  | opened (block : OpenBlock)
  | stray
  deriving DecidableEq, Repr

/-- An entry of the accumulation list (R74): `summed` samples of it have left the FIFO into the bank; `counted` is no for
a block of an ended sweep whose summing goes on (R76). -/
structure AccumBlock where
  tag : Byte
  bins : Nat
  bank : BankName
  summed : Nat
  counted : Bool
  deriving DecidableEq, Repr

/-- The thermal gate (R77). -/
inductive Gate where
  | cool
  | hot
  deriving DecidableEq, Repr

/-- The acquisition port block (R79). -/
structure Port where
  fifo : List Half
  outstanding : List Shot
  tagCounter : Byte
  intake : Intake
  accumulation : List AccumBlock
  gate : Gate
  hotLimit : Int
  coolLimit : Int
  stray : Nat
  deriving DecidableEq, Repr

/-! ### Trace banks (chapter 5) -/

/-- The states of a bank (R80). -/
inductive BankState where
  | free
  | filling
  | full
  | analysing
  | held
  | exporting
  deriving DecidableEq, Repr

/-- The reanalysis mark; WAITING goes together with the profile number REANALYSE named (R91). -/
inductive Reanalysis where
  | idle
  | waiting (profile : ProfileNo)
  | running
  deriving DecidableEq, Repr

/-- The hold timer of a bank (R87), running with the length it started with (s). -/
inductive HoldTimer where
  | stopped
  | running (length : Nat)
  | expired
  deriving DecidableEq, Repr

/-- The export record (R88). `sending`: a frame of this export is in transmission. -/
structure ExportRecord where
  tag : Byte
  start : Nat
  count : Nat
  nextBin : Nat
  nextIndex : Nat
  cancel : Bool
  sending : Bool
  deriving DecidableEq, Repr

/-- The bin sums of a bank, sparse: pairs of bin and sum, bins strictly rising, no entry of sum 0 (`Sums.wf`). -/
abbrev Sums := List (Nat × Word)

/-- What a bin that the list does not name holds: 0, as a claim leaves every bin (R81). -/
def unlistedSum : Word := 0

/-- The canonical form of a bank's sums. -/
def Sums.wf : Sums → Bool
  | [] => true
  | [(_, v)] => v != unlistedSum
  | (i, v) :: (j, w) :: rest => v != unlistedSum && decide (i < j) && Sums.wf ((j, w) :: rest)

/-- A trace bank. -/
structure Bank where
  state : BankState
  sums : Sums
  context : Option SweepContext
  accepted : Nat
  reanalysis : Reanalysis
  hold : HoldTimer
  releasePending : Bool
  exporting : Option ExportRecord
  deriving DecidableEq, Repr

/-- The trace banks block (R94). -/
structure Banks where
  a : Bank
  b : Bank
  retainSlot : Option Span
  ready : List BankName
  holdLimit : Nat
  deriving DecidableEq, Repr

/-! ### Baseline store (chapter 6) -/

/-- What lies at a zone's end bin (section 6.1). -/
inductive EndKind where
  | splice
  | connector
  | fibreEnd
  deriving DecidableEq, Repr

/-- A zone record (section 6.1). -/
structure Zone where
  endBin : Nat
  startLevel : Nat
  endLevel : Nat
  kind : EndKind
  deriving DecidableEq, Repr

/-- A baseline record (section 6.1). -/
structure Baseline where
  cls : PulseClass
  binLength : Nat
  launch : Nat
  endBin : Nat
  zones : List Zone
  deriving DecidableEq, Repr

/-- A baseline slot with its generation (R96, R99). -/
structure BaselineSlot where
  record : Option Baseline
  generation : Byte
  deriving DecidableEq, Repr

/-- The baseline store block (R111). -/
structure Baselines where
  slots : Vector BaselineSlot 192
  poolFree : Nat
  deriving DecidableEq, Repr

/-! ### Trace analyser (chapter 7) -/

/-- A threshold profile (section 7.1). -/
structure Profile where
  floor : Nat
  persistence : Nat
  stepGap : Nat
  bend : Nat
  grown : Nat
  breakDrop : Nat
  tolerance : Nat
  blind : Nat
  confirm : Bool
  clearCount : Nat
  deriving DecidableEq, Repr

/-- The kind of an analysis (R115). -/
inductive AnalysisKind where
  | sweep
  | reanalysis
  deriving DecidableEq, Repr

/-- The analysis mode (R118). -/
inductive AnalysisMode where
  | full
  | endTest
  | endOnly
  deriving DecidableEq, Repr

/-- The outcomes of an analysis (R130). -/
inductive AnalysisOutcome where
  | analysed
  | endOnly
  | escalated
  deriving DecidableEq, Repr

/-- The kind of a finding (R128). -/
inductive FindingKind where
  | fibreBreak
  | bend
  | grown
  | unreached
  deriving DecidableEq, Repr

/-- The status of a finding (R128). -/
inductive FindingStatus where
  | new
  | confirmed
  deriving DecidableEq, Repr

/-- A finding (R128). -/
structure Finding where
  kind : FindingKind
  location : Nat
  excess : Nat
  zone : Option Nat
  status : FindingStatus
  deriving DecidableEq, Repr

/-- A list of findings with its more flag (R129). -/
structure FindingList where
  findings : List Finding
  more : Bool
  deriving DecidableEq, Repr

/-- The analysis record (R115). The measured end and the lists are filled when the analysis completes. -/
structure AnalysisRecord where
  bank : BankName
  kind : AnalysisKind
  context : SweepContext
  accepted : Nat
  profile : Profile
  snapshot : BaselineSlot
  mode : AnalysisMode
  launchUsed : Nat
  measuredEnd : Nat
  found : FindingList
  fallback : Option FindingList
  deriving DecidableEq, Repr

/-- The trace analyser block (R133): BUSY exactly when it holds a record. -/
structure Analyser where
  record : Option AnalysisRecord
  profiles : Vector Profile 8
  deriving DecidableEq, Repr

/-! ### Span condition unit (chapter 8) -/

/-- The judged condition of a span (section 8.1). -/
inductive Condition where
  | unknown
  | clear
  | suspect
  | faulted
  deriving DecidableEq, Repr

/-- Why a result changed a span (section 8.3). -/
inductive Cause where
  | firstClear
  | suspected
  | confirmed
  | transient
  | unstable
  | changed
  | restored
  deriving DecidableEq, Repr

/-- The stored lead finding (R134). -/
structure Lead where
  kind : FindingKind
  location : Nat
  excess : Nat
  deriving DecidableEq, Repr

/-- A condition entry (R134). -/
structure ConditionEntry where
  state : Condition
  lead : Option Lead
  attempts : Nat
  streak : Nat
  lastOutcome : Option AnalysisOutcome
  lastEnd : Option Nat
  lastCycle : Option Nat
  deriving DecidableEq, Repr

/-- The reason of a re-check entry, with the class where it carries one (R146). -/
inductive RecheckReason where
  | confirm
  | escalate (cls : PulseClass)
  | retry (cls : PulseClass)
  deriving DecidableEq, Repr

/-- An entry of the re-check queue (R146). -/
structure RecheckEntry where
  span : Span
  reason : RecheckReason
  deriving DecidableEq, Repr

/-- The span condition unit block (R150); the queue's head is the list's head. -/
structure Conditions where
  entries : Vector ConditionEntry 192
  recheck : List RecheckEntry
  deriving DecidableEq, Repr

/-! ### Report queue and notices (chapter 9) -/

/-- The reason of a SPAN_RESULT (R152). -/
inductive RecordReason where
  | sweep (reason : SweepReason)
  | reanalysis
  deriving DecidableEq, Repr

/-- The outcome of a SPAN_RESULT (R152). -/
inductive ResultOutcome where
  | analysis (outcome : AnalysisOutcome)
  | engine (outcome : EngineOutcome)
  deriving DecidableEq, Repr

/-- A SPAN_RESULT record (R152). -/
structure SpanResult where
  span : Span
  reason : RecordReason
  outcome : ResultOutcome
  cls : PulseClass
  accepted : Nat
  rejected : Nat
  lost : Nat
  measuredEnd : Option Nat
  findingCount : Nat
  more : Bool
  retained : Bool
  before : Condition
  after : Condition
  cause : Option Cause
  cycle : Option Nat
  endTime : TimeOfWeek
  deriving DecidableEq, Repr

/-- A record of the report queue (R152). -/
inductive Record where
  | spanResult (r : SpanResult)
  | finding (span : Span) (index : Nat) (f : Finding)
  | cycleEnd (number : Nat) (start : Span) (reason : CycleReason) (planSweeps extraSweeps notReached : Nat)
  | windowEdge (edge : Edge) (cause : EdgeCause) (time : TimeOfWeek) (integrity : Integrity)
  deriving DecidableEq, Repr

/-- The delivery mode (R158). -/
inductive Delivery where
  | stream
  | held
  deriving DecidableEq, Repr

/-- The report queue block (R160). -/
structure Reports where
  records : List Record
  reserved : Nat
  delivery : Delivery
  pauseMark : Nat
  resumeMark : Nat
  backPressure : Bool
  omitted : Nat
  sequence : Byte
  deriving DecidableEq, Repr

/-- The 13 notice kinds (R161). -/
inductive NoticeKind where
  | restarted
  | windowEdge
  | cycleDone
  | faultConfirmed
  | spanRestored
  | selectorFault
  | frontEndMute
  | thermal
  | traceReady
  | holdExpired
  | recheckFull
  | reportHigh
  | clockLost
  deriving DecidableEq, Repr

/-- The notice unit block: bit k of each word stands for kind k (R161, R177). -/
structure Notices where
  pending : BitVec 13
  mask : BitVec 13
  deriving DecidableEq, Repr

/-! ### Shelf link port (chapter 10) -/

/-- The response statuses (R169). -/
inductive Status where
  | ok
  | accepted
  | busy
  | range
  | noSpace
  | conflict
  | notFound
  | unknownCommand
  | malformed
  | clockInvalid
  deriving DecidableEq, Repr

/-- The kinds of reset, as the last reset cause names them (R174). -/
inductive ResetCause where
  | powerOn
  | resetInput
  | fullReset
  | restart
  deriving DecidableEq, Repr

/-- The device settings (section 10.4), as SETTINGS_READ gathers them. -/
structure Settings where
  selectorTimeout : Nat
  hotLimit : Int
  coolLimit : Int
  holdLimit : Nat
  closeGrace : Nat
  delivery : Delivery
  pauseMark : Nat
  resumeMark : Nat
  deriving DecidableEq, Repr

/-- What CLOCK_READ says of the close (R23): not closing; closing with a cause and the seconds remaining; or expired. -/
inductive GraceReport where
  | notClosing
  | remaining (cause : Option EdgeCause) (seconds : Nat)
  | expired (cause : Option EdgeCause)
  deriving DecidableEq, Repr

/-- The result of CLOCK_READ (R23). -/
structure ClockReport where
  time : TimeOfWeek
  integrity : Integrity
  reference : Reference
  schedule : Schedule
  mode : WindowMode
  state : WindowState
  grace : GraceReport
  deriving DecidableEq, Repr

/-- The part of a STATUS_READ result that tells of one bank (R174). -/
structure BankReport where
  state : BankState
  reanalysis : Reanalysis
  releasePending : Bool
  deriving DecidableEq, Repr

/-- The result of STATUS_READ (R174). -/
structure StatusReport where
  engine : EngineState
  sweepSpan : Option Span
  window : WindowState
  mode : WindowMode
  integrity : Integrity
  bankA : BankReport
  bankB : BankReport
  intakeOccupancy : Nat
  reportOccupancy : Nat
  reserved : Nat
  backPressure : Bool
  recheckLength : Nat
  onDemand : Option Span
  retainSlot : Option Span
  selector : Selector
  gate : Gate
  pending : BitVec 13
  lastReset : ResetCause
  stray : Nat
  omitted : Nat
  discarded : Nat
  deriving DecidableEq, Repr

/-- What a RESPONSE carries after its status and code (R178). -/
inductive Results where
  | nothing
  | plan (entry : PlanEntry) (cursor : Span) (cycle : Option Nat)
  | group (g : Group)
  | clock (r : ClockReport)
  | baseline (slot : BaselineSlot) (poolFree : Nat)
  | profile (p : Profile)
  | condition (entry : ConditionEntry) (place : Option (Nat × RecheckReason)) (queueLength : Nat)
  | drained (records : List Record) (occupancy : Nat)
  | notices (pending mask : BitVec 13)
  | noticeSet (set : BitVec 13)
  | settings (s : Settings)
  | status (r : StatusReport)
  deriving DecidableEq, Repr

/-- A RESPONSE (R169): the command's tag, its status, its code (0 when its payload was empty) and its results. -/
structure Response where
  tag : Byte
  status : Status
  code : Byte
  results : Results
  deriving DecidableEq, Repr

/-- An EXPORT frame (R89). -/
structure ExportFrame where
  tag : Byte
  span : Span
  bank : BankName
  index : Nat
  firstBin : Nat
  levels : List Nat
  last : Bool
  cancelled : Bool
  deriving DecidableEq, Repr

/-- A frame on its way to the shelf controller (section 10.3). -/
inductive OutFrame where
  | response (r : Response)
  | report (sequence : Byte) (records : List Record)
  | exported (f : ExportFrame)
  deriving DecidableEq, Repr

/-- The framer with the frame being received (R166): what it has kept so far, in arrival order. -/
inductive Framer where
  | seek
  | syncSeen
  | header (kept : List Byte)
  | payload (kind tag : Byte) (length : Half) (bytes : List Byte)
  | check (kind tag : Byte) (length : Half) (bytes : List Byte) (crcHigh : Option Byte)
  deriving DecidableEq, Repr

/-- A checked COMMAND frame in the command queue (R168). -/
structure CommandFrame where
  tag : Byte
  payload : List Byte
  deriving DecidableEq, Repr

/-- The resets that are commands (R175). -/
inductive ResetCommand where
  | restart
  | fullReset
  deriving DecidableEq, Repr

/-- The dispatcher's states (R169, R175). -/
inductive Dispatcher where
  | ready
  | answering
  | resetPending (kind : ResetCommand)
  deriving DecidableEq, Repr

/-- The shelf link port block (R176); the transmitter is IDLE when it holds no frame. -/
structure Link where
  framer : Framer
  queue : List CommandFrame
  dispatcher : Dispatcher
  buffer : Option Response
  transmitter : Option OutFrame
  discarded : Nat
  lastReset : ResetCause
  deriving DecidableEq, Repr

/-! ### The model's own fields, and the state -/

/-- A FIRE word as it leaves the acquisition port (R66). -/
structure Fire where
  tag : Byte
  cls : PulseClass
  binCount : Nat
  binLength : Nat
  dark : Bool
  deriving DecidableEq, Repr

/-- The MODEL'S OWN record of the words sent on the two downstream ports, oldest first (log 9). -/
structure Outputs where
  fires : List Fire
  selects : List SelPort
  deriving DecidableEq, Repr

/-- The state of the part, and the queue of commands that wait. `freeCount` is the MODEL'S OWN: the counter to which the
opaque constants of Config are applied (logs 6, 7, 8). -/
structure State where
  plan : Plan
  window : Window
  engine : Engine
  port : Port
  banks : Banks
  baselines : Baselines
  analyser : Analyser
  conditions : Conditions
  reports : Reports
  notices : Notices
  link : Link
  outputs : Outputs
  freeCount : Nat
  pending : List Instr
  deriving DecidableEq, Repr

/-- The reasons for which the machine stops with a fault: none. The manual describes no stop of the part; every command
and event has an effect in every state, or is ignored (log 16). Safe and unsafe do not arise. -/
inductive Fault where
  deriving DecidableEq, Repr

/-- Why a command has no meaning. -/
inductive Refusal where
  /-- Raised by an arm of `exec` for a row that has no meaning yet; safe. No arm raises it now. -/
  | notModelled (mnemonic : String)
  deriving DecidableEq, Repr

/-! ### Values at power-on, block by block -/

/-- R1: disabled, port 0, group 0. -/
def PlanEntry.initial : PlanEntry :=
  { enabled := false, port := 0, group := 0 }

/-- The defaults of section 1.4. -/
def GroupSettings.initial : GroupSettings :=
  { baseClass := 2, maxClass := 4, binCount := 8192, binLength := 10, shotCount := 1024, settleTime := 20,
    rejectLimit := 16, litLevel := 2000, profile := 0 }

/-- R15: both sets at the defaults, staged mark no. -/
def Group.initial : Group :=
  { live := .initial, pending := .initial, staged := false }

/-- R1, R5, R9, R15. -/
def Plan.initial : Plan :=
  { entries := Vector.replicate 192 .initial, cursor := 0, active := none, ending := [], lastNumber := 0,
    groups := Vector.replicate 8 .initial }

/-- Day 0, 00:00:00 (R35). -/
def TimeOfWeek.initial : TimeOfWeek :=
  { day := 0, hour := 0, minute := 0, second := 0 }

/-- R26: empty mask, open 00:00, close 01:00. -/
def Schedule.initial : Schedule :=
  { dayMask := 0, openHour := 0, openMinute := 0, closeHour := 1, closeMinute := 0 }

/-- R35. -/
def Window.initial : Window :=
  { time := .initial, divider := 0, integrity := .invalid, reference := .present, schedule := .initial,
    mode := .schedule, state := .closed, grace := .stopped, graceSetting := 120, closeCause := none }

/-- R63. -/
def Engine.initial : Engine :=
  { state := .idle, bank := none, outcome := none, onDemand := none, selector := .unknown, selectorTimer := none,
    settleTimer := none, hotHoldTimer := false, selectorTimeout := 400 }

/-- R79. -/
def Port.initial : Port :=
  { fifo := [], outstanding := [], tagCounter := 0, intake := .noBlock, accumulation := [], gate := .cool,
    hotLimit := 70, coolLimit := 60, stray := 0 }

/-- R94; the sums at power-on are a DESIGN CHOICE (log 5). -/
def Bank.initial : Bank :=
  { state := .free, sums := [], context := none, accepted := 0, reanalysis := .idle, hold := .stopped,
    releasePending := false, exporting := none }

/-- R94. -/
def Banks.initial : Banks :=
  { a := .initial, b := .initial, retainSlot := none, ready := [], holdLimit := 900 }

/-- R111: absent, generation 0. -/
def BaselineSlot.initial : BaselineSlot :=
  { record := none, generation := 0 }

/-- R111. -/
def Baselines.initial : Baselines :=
  { slots := Vector.replicate 192 .initial, poolFree := Config.poolSize }

/-- The defaults of section 7.1. -/
def Profile.initial : Profile :=
  { floor := 1500, persistence := 4, stepGap := 8, bend := 300, grown := 200, breakDrop := 3000, tolerance := 6,
    blind := 12, confirm := true, clearCount := 3 }

/-- R133. -/
def Analyser.initial : Analyser :=
  { record := none, profiles := Vector.replicate 8 .initial }

/-- R134. -/
def ConditionEntry.initial : ConditionEntry :=
  { state := .unknown, lead := none, attempts := 0, streak := 0, lastOutcome := none, lastEnd := none,
    lastCycle := none }

/-- R150. -/
def Conditions.initial : Conditions :=
  { entries := Vector.replicate 192 .initial, recheck := [] }

/-- R160. -/
def Reports.initial : Reports :=
  { records := [], reserved := 0, delivery := .stream, pauseMark := 96, resumeMark := 64, backPressure := false,
    omitted := 0, sequence := 0 }

/-- R162, R165: RESTARTED (kind 0) pending; WINDOW_EDGE (kind 1) and CYCLE_DONE (kind 2) masked. -/
def Notices.initial : Notices :=
  { pending := 1, mask := 6 }

/-- R176. -/
def Link.initial : Link :=
  { framer := .seek, queue := [], dispatcher := .ready, buffer := none, transmitter := none, discarded := 0,
    lastReset := .powerOn }

/-- The part right after power-on, with no command waiting. -/
def State.reset : State :=
  { plan := .initial, window := .initial, engine := .initial, port := .initial, banks := .initial,
    baselines := .initial, analyser := .initial, conditions := .initial, reports := .initial, notices := .initial,
    link := .initial, outputs := { fires := [], selects := [] }, freeCount := 0, pending := [] }

end Sys2Proof.Machine
end

