-- ==== Sys2Proof/Machine/Ops.lean ====
section
/-! DEFINITION. The named updates of State, one per block; reading and writing the tables and the banks; the bin sums,
read and written in canonical form; and what a command answers. -/

namespace Sys2Proof.Machine

/-- What a step answers. -/
abbrev Out : Type := Host.Outcome State Fault Refusal

/-! ### One update per block -/

def State.withPlan (s : State) (x : Plan) : State := { s with plan := x }
def State.withWindow (s : State) (x : Window) : State := { s with window := x }
def State.withEngine (s : State) (x : Engine) : State := { s with engine := x }
def State.withPort (s : State) (x : Port) : State := { s with port := x }
def State.withBanks (s : State) (x : Banks) : State := { s with banks := x }
def State.withBaselines (s : State) (x : Baselines) : State := { s with baselines := x }
def State.withAnalyser (s : State) (x : Analyser) : State := { s with analyser := x }
def State.withConditions (s : State) (x : Conditions) : State := { s with conditions := x }
def State.withReports (s : State) (x : Reports) : State := { s with reports := x }
def State.withNotices (s : State) (x : Notices) : State := { s with notices := x }
def State.withLink (s : State) (x : Link) : State := { s with link := x }
def State.withOutputs (s : State) (x : Outputs) : State := { s with outputs := x }
def State.withFreeCount (s : State) (x : Nat) : State := { s with freeCount := x }
def State.withPending (s : State) (x : List Instr) : State := { s with pending := x }

/-! ### Tables -/

/-- Entry `i` of a table. -/
def tableGet {α : Type} {n : Nat} (t : Vector α n) (i : Fin n) : α :=
  t[i.val]

/-- The table with entry `i` replaced. -/
def tableSet {α : Type} {n : Nat} (t : Vector α n) (i : Fin n) (x : α) : Vector α n :=
  t.set i.val x

/-- The plan entry of a span (R1). -/
def State.entry (s : State) (sp : Span) : PlanEntry :=
  tableGet s.plan.entries sp

def State.setEntry (s : State) (sp : Span) (e : PlanEntry) : State :=
  s.withPlan { s.plan with entries := tableSet s.plan.entries sp e }

/-- A sweep group (R15). -/
def State.group (s : State) (g : GroupNo) : Group :=
  tableGet s.plan.groups g

def State.setGroup (s : State) (g : GroupNo) (x : Group) : State :=
  s.withPlan { s.plan with groups := tableSet s.plan.groups g x }

/-- The baseline slot of a span (R96). -/
def State.slot (s : State) (sp : Span) : BaselineSlot :=
  tableGet s.baselines.slots sp

/-- The slot of a span and the pool free count written together (R104, R106). -/
def State.setSlot (s : State) (sp : Span) (x : BaselineSlot) (poolFree : Nat) : State :=
  s.withBaselines { slots := tableSet s.baselines.slots sp x, poolFree := poolFree }

/-- A threshold profile (R112). -/
def State.profile (s : State) (p : ProfileNo) : Profile :=
  tableGet s.analyser.profiles p

def State.setProfile (s : State) (p : ProfileNo) (x : Profile) : State :=
  s.withAnalyser { s.analyser with profiles := tableSet s.analyser.profiles p x }

/-- The condition entry of a span (R134). -/
def State.condition (s : State) (sp : Span) : ConditionEntry :=
  tableGet s.conditions.entries sp

def State.setCondition (s : State) (sp : Span) (x : ConditionEntry) : State :=
  s.withConditions { s.conditions with entries := tableSet s.conditions.entries sp x }

/-- Some plan entry is enabled (R10, section 1.2.1). -/
def State.anyEnabled (s : State) : Bool :=
  s.plan.entries.toList.any (·.enabled)

/-! ### Banks -/

/-- The other bank. -/
def otherBank : BankName → BankName
  | .a => .b
  | .b => .a

def State.bank (s : State) : BankName → Bank
  | .a => s.banks.a
  | .b => s.banks.b

def State.setBank (s : State) (n : BankName) (x : Bank) : State :=
  match n with
  | .a => s.withBanks { s.banks with a := x }
  | .b => s.withBanks { s.banks with b := x }

/-- A held bank (section 5.1): HELD, EXPORTING, or ANALYSING with its reanalysis RUNNING. -/
def Bank.held (b : Bank) : Bool :=
  b.state == .held || b.state == .exporting || (b.state == .analysing && b.reanalysis == .running)

/-- The held bank, at most one (R80). -/
def State.heldBank (s : State) : Option BankName :=
  if s.banks.a.held then some .a else if s.banks.b.held then some .b else none

/-- A bank is HELD or EXPORTING (R57). -/
def State.heldOrExporting (s : State) : Bool :=
  s.banks.a.state == .held || s.banks.a.state == .exporting ||
    s.banks.b.state == .held || s.banks.b.state == .exporting

/-- The bank a claim takes: A if A is FREE, otherwise B if B is FREE (R39, R81). -/
def State.freeBankName (s : State) : Option BankName :=
  if s.banks.a.state == .free then some .a else if s.banks.b.state == .free then some .b else none

/-- A bank's context has retain yes. -/
def Bank.retains (b : Bank) : Bool :=
  match b.context with
  | some c => c.retain
  | none => false

/-! ### The sweep in flight -/

/-- The engine holds a sweep: the sweep in flight of R32. -/
def State.sweepInFlight (s : State) : Bool :=
  !(s.engine.state == .idle || s.engine.state == .waiting)

/-- The context of the sweep the engine holds: the context of the bank it holds (R36). -/
def State.context (s : State) : Option SweepContext :=
  match s.engine.bank with
  | some n => (s.bank n).context
  | none => none

/-- The context of the sweep in flight replaced, in the one bank that holds it (R36). -/
def State.setContext (s : State) (c : SweepContext) : State :=
  match s.engine.bank with
  | some n => s.setBank n { s.bank n with context := some c }
  | none => s

def State.setEngineState (s : State) (x : EngineState) : State :=
  s.withEngine { s.engine with state := x }

/-! ### Bin sums, in canonical form -/

/-- What a bin of a bank holds. -/
def Sums.read : Sums → Nat → Word
  | [], _ => unlistedSum
  | (j, v) :: rest, i => if i = j then v else Sums.read rest i

/-- A pair is listed only when it differs from what an unlisted bin holds. -/
def Sums.listed (i : Nat) (v : Word) (rest : Sums) : Sums :=
  if v = unlistedSum then rest else (i, v) :: rest

/-- A bin written, the canonical form kept. -/
def Sums.write : Sums → Nat → Word → Sums
  | [], i, v => Sums.listed i v []
  | (j, w) :: rest, i, v =>
    if i < j then Sums.listed i v ((j, w) :: rest)
    else if i = j then Sums.listed i v rest
    else (j, w) :: Sums.write rest i v

/-- A level added to a bin (R74); a sum cannot pass 32 bits within one sweep (R74). -/
def Sums.add (m : Sums) (i : Nat) (level : Half) : Sums :=
  Sums.write m i (Sums.read m i + level.setWidth 32)

/-! ### Small arithmetic -/

/-- A count that stops at its greatest value. -/
def bump (limit n : Nat) : Nat :=
  if n < limit then n + 1 else n

/-- The next value of a counter of 8 bits, from 255 back to 0. -/
def nextByte (b : Byte) : Byte :=
  b + 1

/-- The index after `i`, round the 192 entries (R5). -/
def nextIndex (i : Span) : Span :=
  i + 1

/-! ### What a command answers -/

/-- A command carried out or refused: the state it leaves, its status and its results (R169). -/
structure Done where
  state : State
  status : Status
  results : Results

/-- A refused command changes nothing and returns no result (R169). -/
def State.refuse (s : State) (st : Status) : Done :=
  { state := s, status := st, results := .nothing }

/-- A command carried out, with no result beyond its status. -/
def State.ok (s : State) : Done :=
  { state := s, status := .ok, results := .nothing }

/-- A command carried out, with its results. -/
def State.okWith (s : State) (r : Results) : Done :=
  { state := s, status := .ok, results := r }

/-! ### Free values -/

/-- The state with the next free value of the run still unused: the counter the opaque constants are applied to. -/
def State.nextFree (s : State) : State :=
  s.withFreeCount (s.freeCount + 1)

end Sys2Proof.Machine
end

