-- ==== Sys2Proof/Machine/Operands.lean ====
section
/-! DEFINITION. The operand forms of the commands: a byte or a wider field read as a span, a selector port, a group, a
profile, a class, a yes/no or an enumeration (R177), each none outside its range; the nine fields of a group (section
1.4), the ten fields of a profile (section 7.1) and the eight settings (section 10.4) with their ranges. -/

namespace Sys2Proof.Machine

/-- A number below `n`, or none. -/
def belowOf (n : Nat) (k : Nat) : Option (Fin n) :=
  if h : k < n then some ⟨k, h⟩ else none

/-- A span number, 0 to 191. -/
def spanOf (b : Byte) : Option Span :=
  belowOf 192 b.toNat

/-- A selector port, 0 to 239. -/
def portOf (b : Byte) : Option SelPort :=
  belowOf 240 b.toNat

/-- A group number, 0 to 7. -/
def groupOf (b : Byte) : Option GroupNo :=
  belowOf 8 b.toNat

/-- A profile number, 0 to 7. -/
def profileOf (b : Byte) : Option ProfileNo :=
  belowOf 8 b.toNat

/-- A pulse class, 0 to 5. -/
def classOf (b : Byte) : Option PulseClass :=
  belowOf 6 b.toNat

/-- A yes/no field: 0 no, 1 yes, any other byte none (R177). -/
def yesNo (b : Byte) : Option Bool :=
  if b = 0 then some false else if b = 1 then some true else none

/-- A window mode: SCHEDULE 0, FORCED_OPEN 1, FORCED_CLOSED 2 (R177). -/
def windowModeOf (b : Byte) : Option WindowMode :=
  if b = 0 then some .schedule else if b = 1 then some .forcedOpen else if b = 2 then some .forcedClosed else none

/-- An end kind: SPLICE 0, CONNECTOR 1, END 2 (R177). -/
def endKindOf (b : Byte) : Option EndKind :=
  if b = 0 then some .splice else if b = 1 then some .connector else if b = 2 then some .fibreEnd else none

/-- A time of day and week of four bytes (R22). -/
def timeOf (day hour minute second : Byte) : Option TimeOfWeek :=
  match belowOf 7 day.toNat, belowOf 24 hour.toNat, belowOf 60 minute.toNat, belowOf 60 second.toNat with
  | some d, some h, some m, some x => some { day := d, hour := h, minute := m, second := x }
  | _, _, _, _ => none

/-- A schedule of WINDOW_SET: bit 7 of the mask marks a day above 6, and the two times differ (R26). -/
def scheduleOf (mask openHour openMinute closeHour closeMinute : Byte) : Option Schedule :=
  match belowOf 24 openHour.toNat, belowOf 60 openMinute.toNat, belowOf 24 closeHour.toNat,
    belowOf 60 closeMinute.toNat with
  | some oh, some om, some ch, some cm =>
    if mask.getLsbD 7 || (oh == ch && om == cm) then none
    else some { dayMask := mask.setWidth 7, openHour := oh, openMinute := om, closeHour := ch, closeMinute := cm }
  | _, _, _, _ => none

/-- A value within a range, both ends included. -/
def within (lo hi n : Nat) : Bool :=
  decide (lo ≤ n) && decide (n ≤ hi)

/-- A guarded value. -/
def keepIf {α : Type} (c : Bool) (x : α) : Option α :=
  if c then some x else none

/-- One field of a pending set written (R16): the identifiers of R178 and the ranges of section 1.4; none outside
them. Max class is held to 0 to 5 here; its relation to the base class is checked at the commit. -/
def stageField (g : GroupSettings) (ident value : Nat) : Option GroupSettings :=
  match ident with
  | 0 => (belowOf 6 value).map fun c => { g with baseClass := c }
  | 1 => (belowOf 6 value).map fun c => { g with maxClass := c }
  | 2 => keepIf (within 256 16384 value) { g with binCount := value }
  | 3 => keepIf (within 1 100 value) { g with binLength := value }
  | 4 => keepIf (within 16 65536 value) { g with shotCount := value }
  | 5 => keepIf (within 1 250 value) { g with settleTime := value }
  | 6 => keepIf (within 1 255 value) { g with rejectLimit := value }
  | 7 => keepIf (within 0 65535 value) { g with litLevel := value }
  | 8 => (belowOf 8 value).map fun p => { g with profile := p }
  | _ => none

/-- The pairs of GROUP_STAGE written in list order; none when any of them is out of range (R16). -/
def stageFields : GroupSettings → List (Byte × Word) → Option GroupSettings
  | g, [] => some g
  | g, (ident, value) :: rest =>
    match stageField g ident.toNat value.toNat with
    | some g' => stageFields g' rest
    | none => none

/-- The group numbers of GROUP_COMMIT; none when one is above 7 (R17). -/
def groupsOf : List Byte → Option (List GroupNo)
  | [] => some []
  | b :: rest =>
    match groupOf b, groupsOf rest with
    | some g, some gs => some (g :: gs)
    | _, _ => none

/-- The profile of PROFILE_WRITE's ten fields; none when one is outside its range (R113, section 7.1). -/
def profileFields (floor : Half) (persistence stepGap : Byte) (bend grown breakDrop : Half)
    (tolerance blind confirm clearCount : Byte) : Option Profile :=
  match yesNo confirm with
  | some c =>
    keepIf (within 1 64 persistence.toNat && within 1 64 stepGap.toNat && within 1 20000 bend.toNat &&
        within 1 20000 grown.toNat && within 1 65535 breakDrop.toNat && within 1 15 clearCount.toNat)
      { floor := floor.toNat, persistence := persistence.toNat, stepGap := stepGap.toNat, bend := bend.toNat,
        grown := grown.toNat, breakDrop := breakDrop.toNat, tolerance := tolerance.toNat, blind := blind.toNat,
        confirm := c, clearCount := clearCount.toNat }
  | none => none

/-- A zone of BASELINE_LOAD, each field alone in its range (R101). -/
def zoneOf (z : ZoneWords) : Option Zone :=
  match endKindOf z.endKind with
  | some k =>
    keepIf (within 0 16383 z.endBin.toNat)
      { endBin := z.endBin.toNat, startLevel := z.startLevel.toNat, endLevel := z.endLevel.toNat, kind := k }
  | none => none

/-- The zones of BASELINE_LOAD, each in its ranges (R101). -/
def zonesIn : List ZoneWords → Option (List Zone)
  | [] => some []
  | z :: rest =>
    match zoneOf z, zonesIn rest with
    | some x, some xs => some (x :: xs)
    | _, _ => none

/-- The record of BASELINE_LOAD when every field alone is in its range (R101). -/
def baselineOf (cls binLength : Byte) (launch endBin : Half) (zones : List ZoneWords) : Option Baseline :=
  match classOf cls, zonesIn zones with
  | some c, some zs =>
    keepIf (within 1 100 binLength.toNat && within 0 16382 launch.toNat && within 0 16383 endBin.toNat &&
        within 1 24 zones.length)
      { cls := c, binLength := binLength.toNat, launch := launch.toNat, endBin := endBin.toNat, zones := zs }
  | _, _ => none

/-- One device setting written (section 10.4): identifiers 0 to 7 and their ranges; none outside them (R173, check 1). -/
def settingField (x : Settings) (ident : Nat) (value : Int) : Option Settings :=
  match ident with
  | 0 => keepIf (decide (50 ≤ value) && decide (value ≤ 2000)) { x with selectorTimeout := value.toNat }
  | 1 => keepIf (decide (-40 ≤ value) && decide (value ≤ 125)) { x with hotLimit := value }
  | 2 => keepIf (decide (-40 ≤ value) && decide (value ≤ 125)) { x with coolLimit := value }
  | 3 => keepIf (decide (60 ≤ value) && decide (value ≤ 3600)) { x with holdLimit := value.toNat }
  | 4 => keepIf (decide (0 ≤ value) && decide (value ≤ 900)) { x with closeGrace := value.toNat }
  | 5 =>
    if value = 0 then some { x with delivery := .stream }
    else if value = 1 then some { x with delivery := .held } else none
  | 6 => keepIf (decide (16 ≤ value) && decide (value ≤ 117)) { x with pauseMark := value.toNat }
  | 7 => keepIf (decide (8 ≤ value) && decide (value ≤ 112)) { x with resumeMark := value.toNat }
  | _ => none

/-- The pairs of SETTINGS_WRITE formed in list order; none when any of them is out of range (R173). -/
def settingFields : Settings → List (Byte × Half) → Option Settings
  | x, [] => some x
  | x, (ident, value) :: rest =>
    match settingField x ident.toNat value.toInt with
    | some x' => settingFields x' rest
    | none => none

/-- The relations of R173, check 2 (R78, R158): the cool limit is below the hot limit, and the pause mark is at least
the resume mark plus 8. -/
def Settings.related (x : Settings) : Bool :=
  decide (x.coolLimit < x.hotLimit) && decide (x.resumeMark + 8 ≤ x.pauseMark)

/-- The kind numbers of NOTICE_ACK as kinds 0 to 12; none when one is above 12 (R163). -/
def kindsOf : List Byte → Option (List (Fin 13))
  | [] => some []
  | b :: rest =>
    match belowOf 13 b.toNat, kindsOf rest with
    | some k, some ks => some (k :: ks)
    | _, _ => none

/-- The pairs of NOTICE_MASK as kinds 0 to 12 and actions 0 to 3; none outside them (R164). -/
def maskActionsOf : List (Byte × Byte) → Option (List (Fin 13 × Fin 4))
  | [] => some []
  | (kind, action) :: rest =>
    match belowOf 13 kind.toNat, belowOf 4 action.toNat, maskActionsOf rest with
    | some k, some a, some ps => some ((k, a) :: ps)
    | _, _, _ => none

end Sys2Proof.Machine
end

