-- ==== Sys2Proof/Machine/Flags.lean ====
section
/-! DEFINITION. The notices with their mask and the ALERT output (R161 to R164), the conditions of the level kinds, and
the conditions computed from the report queue and the sources: free slots, the grant of R153, back-pressure (R155), and
whether a sweep source exists (R38). -/

namespace Sys2Proof.Machine

/-! ### Notices -/

/-- The number of a notice kind (R161). -/
def NoticeKind.number : NoticeKind → Fin 13
  | .restarted => 0
  | .windowEdge => 1
  | .cycleDone => 2
  | .faultConfirmed => 3
  | .spanRestored => 4
  | .selectorFault => 5
  | .frontEndMute => 6
  | .thermal => 7
  | .traceReady => 8
  | .holdExpired => 9
  | .recheckFull => 10
  | .reportHigh => 11
  | .clockLost => 12

/-- The set that holds one kind: bit k for kind k (R177). -/
def kindBit (k : Fin 13) : BitVec 13 :=
  BitVec.twoPow 13 k.val

/-- A kind is in a set. -/
def NoticeKind.isIn (k : NoticeKind) (set : BitVec 13) : Bool :=
  set.getLsbD k.number.val

/-- A block raises a kind: it becomes pending, or stays pending, masked or not (R161). -/
def State.raise (s : State) (k : NoticeKind) : State :=
  s.withNotices { s.notices with pending := s.notices.pending ||| kindBit k.number }

/-- The conditions of the level kinds THERMAL, REPORT_HIGH and CLOCK_LOST that hold (R161). -/
def State.levelsHolding (s : State) : BitVec 13 :=
  (if s.port.gate == .hot then kindBit NoticeKind.thermal.number else 0) |||
    (if s.reports.backPressure then kindBit NoticeKind.reportHigh.number else 0) |||
    (if s.window.reference == .lost then kindBit NoticeKind.clockLost.number else 0)

/-- The set of the kinds of a list. -/
def kindSet : List (Fin 13) → BitVec 13
  | [] => 0
  | k :: rest => kindBit k ||| kindSet rest

/-- The pending set after an acknowledgement: a named kind is cleared unless it is a level kind whose condition holds (R163). -/
def State.acknowledged (s : State) (kinds : List (Fin 13)) : BitVec 13 :=
  s.notices.pending &&& ~~~(kindSet kinds &&& ~~~s.levelsHolding)

/-- The mask after one action (R164): 1 masks, 3 unmasks, 0 and 2 leave it. -/
def maskAction (mask : BitVec 13) (k : Fin 13) (action : Fin 4) : BitVec 13 :=
  if action = 1 then mask ||| kindBit k else if action = 3 then mask &&& ~~~kindBit k else mask

/-- The mask after the pairs of NOTICE_MASK, in list order (R164). -/
def maskActions : BitVec 13 → List (Fin 13 × Fin 4) → BitVec 13
  | mask, [] => mask
  | mask, (k, a) :: rest => maskActions (maskAction mask k a) rest

/-- ALERT is asserted exactly when a pending kind is not masked (R162). -/
def State.alert (s : State) : Bool :=
  (s.notices.pending &&& ~~~s.notices.mask) != 0

/-- The mask of power-on and FULL_RESET: WINDOW_EDGE and CYCLE_DONE masked (R162). -/
def defaultMask : BitVec 13 :=
  kindBit NoticeKind.windowEdge.number ||| kindBit NoticeKind.cycleDone.number

/-! ### The report queue -/

/-- The number of records held (R151). -/
def Reports.occupancy (r : Reports) : Nat :=
  r.records.length

/-- At least one slot is free: neither occupied nor reserved (R151). -/
def Reports.hasFree (r : Reports) : Bool :=
  decide (r.occupancy + r.reserved < Config.reportSlots)

/-- The queue would grant a reservation of 9 slots (R153). -/
def Reports.grants (r : Reports) : Bool :=
  decide (r.occupancy + r.reserved + Config.grantMargin ≤ Config.reportSlots) && !r.backPressure

/-! ### The sources of a sweep -/

/-- The plan offers a span: a cycle is ACTIVE and an entry is enabled (section 1.2.1). -/
def State.planOffers (s : State) : Bool :=
  s.plan.active.isSome && s.anyEnabled

/-- The re-check source exists (R38, case 2). -/
def State.recheckOffers (s : State) : Bool :=
  !s.conditions.recheck.isEmpty && s.window.state == .opened

/-- Some source of R38 exists. -/
def State.sourceExists (s : State) : Bool :=
  s.engine.onDemand.isSome || s.recheckOffers || s.planOffers

/-- Both start conditions of R39 hold. -/
def State.startAllowed (s : State) : Bool :=
  s.freeBankName.isSome && s.reports.grants

/-- The engine chooses (R38, R40): holding no sweep it is WAITING when a source exists and IDLE when none does; the
start itself is the row SWEEP_START (log 1). -/
def State.choose (s : State) : State :=
  match s.engine.state with
  | .idle | .waiting => s.setEngineState (if s.sourceExists then .waiting else .idle)
  | _ => s

end Sys2Proof.Machine
end

