-- ==== Sys2Proof/Machine/Queues.lean ====
section
/-! DEFINITION. The shared operations over the two queues that many blocks use: putting, reserving, releasing and taking
records of the report queue with back-pressure (R151 to R159), and the requests and removals of the re-check queue (R147
to R149). -/

namespace Sys2Proof.Machine

/-! ### Report queue -/

/-- Back-pressure set, with REPORT_HIGH, when the occupancy is at the pause mark or above (R155). -/
def State.checkPause (s : State) : State :=
  if s.reports.pauseMark ≤ s.reports.occupancy && !s.reports.backPressure then
    (s.withReports { s.reports with backPressure := true }).raise .reportHigh
  else s

/-- Back-pressure cleared when the occupancy is at the resume mark or below (R155); the engine is told by the caller. -/
def State.checkResume (s : State) : State :=
  if s.reports.occupancy ≤ s.reports.resumeMark && s.reports.backPressure then
    s.withReports { s.reports with backPressure := false }
  else s

/-- A record joins the tail (R151), and back-pressure follows (R155). -/
def State.pushRecord (s : State) (r : Record) : State :=
  (s.withReports { s.reports with records := s.reports.records ++ [r] }).checkPause

/-- A record put into a reserved slot of its work: the occupancy rises by 1 and the reserved slots fall by 1 (R153). -/
def State.putReserved (s : State) (r : Record) : State :=
  (s.withReports { s.reports with reserved := s.reports.reserved - 1 }).pushRecord r

/-- Several records of one work, in order (R153). -/
def State.putAll (s : State) : List Record → State
  | [] => s
  | r :: rest => (s.putReserved r).putAll rest

/-- Reserved slots released; the engine chooses (R153). -/
def State.releaseSlots (s : State) (n : Nat) : State :=
  (s.withReports { s.reports with reserved := s.reports.reserved - n }).choose

/-- The records of one work put into its reservation of 9, and the slots not used released (R153). They are released with
the records, before a CYCLE_END that the end of the same work frees looks for a free slot (DESIGN CHOICE, log 26). -/
def State.putWork (s : State) (records : List Record) : State :=
  (s.putAll records).releaseSlots (Config.reservation - records.length)

/-- The 9 slots of a reservation set aside (R153); the caller has asked `Reports.grants`. -/
def State.reserve (s : State) : State :=
  s.withReports { s.reports with reserved := s.reports.reserved + Config.reservation }

/-- An edge record put without a reservation: into a free slot, or counted as omitted (R154). -/
def State.putEdge (s : State) (r : Record) : State :=
  if s.reports.hasFree then s.pushRecord r
  else s.withReports { s.reports with omitted := bump Config.countLimit s.reports.omitted }

/-- The oldest records leave, up to `n` (R156, R157): back-pressure follows, and the engine chooses. -/
def State.takeRecords (s : State) (n : Nat) : State :=
  if s.reports.records.isEmpty then s
  else ((s.withReports { s.reports with records := s.reports.records.drop n }).checkResume).choose

/-- The marks' change applied at once (R158): the engine is told when back-pressure is cleared. -/
def State.applyMarks (s : State) : State :=
  if s.reports.pauseMark ≤ s.reports.occupancy then s.checkPause
  else if s.reports.occupancy ≤ s.reports.resumeMark then s.checkResume.choose else s

/-! ### Re-check queue -/

/-- The queue takes only spans whose plan entry is enabled and whose baseline is present (R147, case 1). -/
def State.admissible (s : State) (sp : Span) : Bool :=
  (s.entry sp).enabled && (s.slot sp).record.isSome

/-- The span stands in the queue. -/
def State.queued (s : State) (sp : Span) : Bool :=
  s.conditions.recheck.any fun e => e.span == sp

def State.setRecheck (s : State) (q : List RecheckEntry) : State :=
  s.withConditions { s.conditions with recheck := q }

/-- An entry's reason and class replaced, its position kept (R147, case 2). -/
def updateRecheck (sp : Span) (reason : RecheckReason) : List RecheckEntry → List RecheckEntry
  | [] => []
  | e :: rest => if e.span = sp then { e with reason := reason } :: rest else e :: updateRecheck sp reason rest

/-- What the queue did with a request (R147). -/
inductive RecheckAnswer where
  | refused
  | updated
  | dropped
  | joined
  deriving DecidableEq, Repr

/-- What the queue does with a request for a span (R147), whatever the place asked for. -/
def State.recheckAnswer (s : State) (sp : Span) : RecheckAnswer :=
  if !s.admissible sp then .refused
  else if s.queued sp then .updated
  else if Config.recheckSlots ≤ s.conditions.recheck.length then .dropped
  else .joined

/-- A request at the tail (R147): CONFIRM and ESCALATE of the condition unit, and the give-backs of R56. -/
def State.requestTail (s : State) (sp : Span) (reason : RecheckReason) : State :=
  match s.recheckAnswer sp with
  | .refused => s
  | .updated => (s.setRecheck (updateRecheck sp reason s.conditions.recheck)).choose
  | .dropped => s.raise .recheckFull
  | .joined => (s.setRecheck (s.conditions.recheck ++ [{ span := sp, reason := reason }])).choose

/-- The entries of a span moved to the front, the others in order behind (R148). -/
def moveToHead (sp : Span) (q : List RecheckEntry) : List RecheckEntry :=
  q.filter (fun e => e.span == sp) ++ q.filter (fun e => e.span != sp)

/-- A RETRY request at the head (R148): a queued entry moves to the head with its reason and class kept. -/
def State.requestHead (s : State) (sp : Span) (cls : PulseClass) : State :=
  match s.recheckAnswer sp with
  | .refused => s
  | .updated => (s.setRecheck (moveToHead sp s.conditions.recheck)).choose
  | .dropped => s.raise .recheckFull
  | .joined => (s.setRecheck ({ span := sp, reason := .retry cls } :: s.conditions.recheck)).choose

/-- A span's entry leaves the queue, whatever its reason (R149); the engine is told of a source vanishing. A span not
queued is left so. -/
def State.removeRecheck (s : State) (sp : Span) : State :=
  if s.queued sp then (s.setRecheck (s.conditions.recheck.filter fun e => e.span != sp)).choose else s

/-- The span stands in the queue with reason CONFIRM. -/
def State.queuedConfirm (s : State) (sp : Span) : Bool :=
  s.conditions.recheck.any fun e => e.span == sp && e.reason == .confirm

/-- A span's entry leaves the queue when its reason is CONFIRM (R143). -/
def State.removeConfirm (s : State) (sp : Span) : State :=
  if s.queuedConfirm sp then (s.setRecheck (s.conditions.recheck.filter fun e => e.span != sp)).choose else s

end Sys2Proof.Machine
end

