-- ==== Sys2Proof/Machine/Banks.lean ====
section
/-! DEFINITION. The trace banks: freeing and holding (R82, R84, R87), retention (R86), export (R88 to R90), reanalysis
(R91) and release (R93). -/

namespace Sys2Proof.Machine

/-! ### Freeing -/

/-- A bank that is FREE: its context copy discarded, its hold timer stopped (R80, R82, R87). Its sums, its count and its
release-pending flag stay until a claim sets them (R81; log 17). -/
def Bank.freed (b : Bank) : Bank :=
  { b with state := .free, context := none, reanalysis := .idle, hold := .stopped, exporting := none }

/-- A bank becomes FREE: HOLD_EXPIRED when the freeing finds its timer EXPIRED (R87), and the engine is told (R82). -/
def State.freeBank (s : State) (n : BankName) : State :=
  if (s.bank n).hold == .expired then ((s.setBank n (s.bank n).freed).raise .holdExpired).choose
  else (s.setBank n (s.bank n).freed).choose

/-- The end of an export or a reanalysis: HELD, or FREE when release-pending is yes (R90, R92). -/
def State.backToHeld (s : State) (n : BankName) : State :=
  if (s.bank n).releasePending then s.freeBank n
  else s.setBank n { s.bank n with state := .held, reanalysis := .idle, exporting := none }

/-- A claim of a bank for a sweep (R81): FILLING, all sums 0, the context placed in it. -/
def State.claimBank (s : State) (n : BankName) (c : SweepContext) : State :=
  s.setBank n
    { state := .filling, sums := [], context := some c, accepted := 0, reanalysis := .idle, hold := .stopped,
      releasePending := false, exporting := none }

/-- The bank at the completion of its sweep (R82): FULL, at the tail of the ready list (R83). -/
def State.fillBank (s : State) (n : BankName) : State :=
  let s' := s.setBank n { s.bank n with state := .full }
  s'.withBanks { s'.banks with ready := s'.banks.ready ++ [n] }

/-! ### Retention -/

/-- RETAIN_REQUEST (R86). -/
def State.retainRequest (s : State) (span : Byte) : Done :=
  match spanOf span with
  | none => s.refuse .range
  | some sp =>
    if s.heldBank.isSome then s.refuse .busy
    else if s.banks.retainSlot.isSome then s.refuse .busy
    else (s.withBanks { s.banks with retainSlot := some sp }).ok

/-- A retained analysis completes into HELD (R84): hold timer started, retain slot emptied, TRACE_READY raised. -/
def State.holdBank (s : State) (n : BankName) : State :=
  let s' := s.setBank n
    { s.bank n with state := .held, reanalysis := .idle, hold := .running s.banks.holdLimit, exporting := none }
  (s'.withBanks { s'.banks with retainSlot := none }).raise .traceReady

/-- The bank is kept at the completion of its sweep's analysis: retain yes, and the other bank not held (R84). -/
def State.keepsTrace (s : State) (n : BankName) (c : SweepContext) : Bool :=
  c.retain && !(s.bank (otherBank n)).held

/-- The bank's next state at the completion of its sweep's analysis (R84). -/
def State.settleBank (s : State) (n : BankName) (c : SweepContext) : State :=
  if s.keepsTrace n c then s.holdBank n else s.freeBank n

/-- The hold timer of a bank expires, which it can only while it runs (R87). -/
def State.holdExpires (s : State) (n : BankName) : State :=
  match (s.bank n).hold with
  | .running _ =>
    let s' := s.setBank n { s.bank n with hold := .expired }
    if (s.bank n).state == .held && (s.bank n).reanalysis == .idle then s'.freeBank n
    else s'.setBank n { s'.bank n with releasePending := true }
  | _ => s

/-! ### Export -/

/-- TRACE_EXPORT (R88). -/
def State.traceExport (s : State) (tag : Byte) (start count : Half) : Done :=
  if !(within 0 16383 start.toNat && within 1 16384 count.toNat) then s.refuse .range
  else
    match s.heldBank with
    | none => s.refuse .notFound
    | some n =>
      if !((s.bank n).state == .held && (s.bank n).reanalysis == .idle) then s.refuse .busy
      else
        match (s.bank n).context with
        | none => s.refuse .range
        | some c =>
          if c.settings.binCount < start.toNat + count.toNat then s.refuse .range
          else
            { state := s.setBank n
                { s.bank n with
                  state := .exporting
                  exporting := some
                    { tag := tag, start := start.toNat, count := count.toNat, nextBin := start.toNat, nextIndex := 0,
                      cancel := false, sending := false } },
              status := .accepted, results := .nothing }

/-- The averaged level of a bin: its sum by the accepted-shot count, truncated (section 0.6.3). -/
def Bank.level (b : Bank) (bin : Nat) : Nat :=
  (b.sums.read bin).toNat / b.accepted

/-- The averaged levels of `n` bins from `first` on. -/
def Bank.levels (b : Bank) (first n : Nat) : List Nat :=
  (List.range n).map fun k => b.level (first + k)

/-- The levels left to send, at most one frame's (R89). -/
def ExportRecord.frameLevels (x : ExportRecord) : Nat :=
  min Config.exportLevels (x.start + x.count - x.nextBin)

/-- The next frame of an export (R89), or the final frame with no levels after a cancel (R90). -/
def ExportRecord.frame (x : ExportRecord) (n : BankName) (b : Bank) (span : Span) : ExportFrame :=
  if x.cancel then
    { tag := x.tag, span := span, bank := n, index := x.nextIndex, firstBin := x.nextBin, levels := [], last := true,
      cancelled := true }
  else
    { tag := x.tag, span := span, bank := n, index := x.nextIndex, firstBin := x.nextBin,
      levels := b.levels x.nextBin x.frameLevels, last := decide (x.start + x.count ≤ x.nextBin + x.frameLevels),
      cancelled := false }

/-- The frame a bank offers to the arbiter: it is EXPORTING and no frame of the export is in transmission (R89). -/
def State.bankOffer (s : State) (n : BankName) : Option ExportFrame :=
  match (s.bank n).state, (s.bank n).exporting, (s.bank n).context with
  | .exporting, some x, some c => if x.sending then none else some (x.frame n (s.bank n) c.span)
  | _, _, _ => none

/-- The EXPORT frame offered (R171): at most one bank is EXPORTING (R80). -/
def State.exportOffer (s : State) : Option ExportFrame :=
  match s.bankOffer .a with
  | some f => some f
  | none => s.bankOffer .b

/-- The transmission of an EXPORT frame begins: the next bin and the next index advance past it (R89). -/
def State.exportBegins (s : State) (f : ExportFrame) : State :=
  match (s.bank f.bank).exporting with
  | some x =>
    s.setBank f.bank
      { s.bank f.bank with
        exporting := some
          { x with nextBin := x.nextBin + f.levels.length, nextIndex := x.nextIndex + 1, sending := true } }
  | none => s

/-- An EXPORT frame has been sent (R89, R90): the final one ends the export, after another the next may be offered. -/
def State.exportSent (s : State) (f : ExportFrame) : State :=
  match (s.bank f.bank).state, (s.bank f.bank).exporting with
  | .exporting, some x =>
    if x.sending then
      if f.last then s.backToHeld f.bank
      else s.setBank f.bank { s.bank f.bank with exporting := some { x with sending := false } }
    else s
  | _, _ => s

/-! ### Reanalysis and release -/

/-- REANALYSE (R91). -/
def State.reanalyse (s : State) (profile : Byte) : Done :=
  match profileOf profile with
  | none => s.refuse .range
  | some p =>
    match s.heldBank with
    | none => s.refuse .notFound
    | some n =>
      if !((s.bank n).state == .held && (s.bank n).reanalysis == .idle) then s.refuse .busy
      else if !s.reports.grants then s.refuse .busy
      else
        let s' := s.reserve.setBank n { s.bank n with reanalysis := .waiting p }
        (s'.withBanks { s'.banks with ready := s'.banks.ready ++ [n] }).ok

/-- The held bank's release (R93): FREE at once, or release-pending with the work going on, an export cancelled (R90).
Nothing more when release-pending is already yes (log 18). -/
def State.releaseBank (s : State) (n : BankName) : State :=
  if (s.bank n).releasePending then s
  else if (s.bank n).state == .exporting then
    s.setBank n
      { s.bank n with
        releasePending := true, exporting := (s.bank n).exporting.map fun x => { x with cancel := true } }
  else if (s.bank n).state == .held && (s.bank n).reanalysis == .idle then s.freeBank n
  else s.setBank n { s.bank n with releasePending := true }

/-- BANK_RELEASE (R93). -/
def State.bankRelease (s : State) : Done :=
  match s.heldBank with
  | none => s.refuse .notFound
  | some n => (s.releaseBank n).ok

end Sys2Proof.Machine
end

