-- ==== Sys2Proof/Machine/Baselines.lean ====
section
/-! DEFINITION. The baseline store (R96 to R107), the set-back it asks of the span condition unit (R105), the profile
commands (R113, R114) and the condition commands (R144, R145). -/

namespace Sys2Proof.Machine

/-! ### Set-back -/

/-- The judgement of an entry set back (R105, R145): UNKNOWN, lead absent, both counts 0, the last fields kept. -/
def ConditionEntry.setBack (e : ConditionEntry) : ConditionEntry :=
  { e with state := .unknown, lead := none, attempts := 0, streak := 0 }

/-- A span set back and removed from the re-check queue (R105, R145). -/
def State.setBack (s : State) (sp : Span) : State :=
  (s.setCondition sp (s.condition sp).setBack).removeRecheck sp

/-! ### Baselines -/

/-- The end bins increase strictly, the first above the bin given (R102, checks 1 and 2). -/
def endsRise : Nat → List Zone → Bool
  | _, [] => true
  | before, z :: rest => decide (before < z.endBin) && endsRise z.endBin rest

/-- The last zone ends at E with end kind END, and no other zone has end kind END (R102, checks 3 to 5). -/
def endsAt (e : Nat) : List Zone → Bool
  | [] => false
  | [z] => z.endBin == e && z.kind == .fibreEnd
  | z :: y :: rest => z.kind != .fibreEnd && endsAt e (y :: rest)

/-- The structural checks of BASELINE_LOAD (R102). -/
def Baseline.structured (b : Baseline) : Bool :=
  endsRise b.launch b.zones && endsAt b.endBin b.zones

/-- The zone records a slot holds (R98). -/
def BaselineSlot.held (x : BaselineSlot) : Nat :=
  match x.record with
  | some b => b.zones.length
  | none => 0

/-- BASELINE_LOAD (R101 to R105). -/
def State.baselineLoad (s : State) (span cls binLength : Byte) (launch endBin : Half) (zones : List ZoneWords) : Done :=
  match spanOf span, baselineOf cls binLength launch endBin zones with
  | some sp, some b =>
    if !b.structured then s.refuse .range
    else if s.baselines.poolFree + (s.slot sp).held < b.zones.length then s.refuse .noSpace
    else
      ((s.setSlot sp { record := some b, generation := nextByte (s.slot sp).generation }
        (s.baselines.poolFree + (s.slot sp).held - b.zones.length)).setBack sp).ok
  | _, _ => s.refuse .range

/-- BASELINE_DROP (R105, R106). -/
def State.baselineDrop (s : State) (span : Byte) : Done :=
  match spanOf span with
  | none => s.refuse .range
  | some sp =>
    if (s.slot sp).record.isNone then s.refuse .notFound
    else
      ((s.setSlot sp { record := none, generation := nextByte (s.slot sp).generation }
        (s.baselines.poolFree + (s.slot sp).held)).setBack sp).ok

/-- BASELINE_READ (R107). -/
def State.baselineRead (s : State) (span : Byte) : Done :=
  match spanOf span with
  | some sp => s.okWith (.baseline (s.slot sp) s.baselines.poolFree)
  | none => s.refuse .range

/-- A slot is current for a sweep: present, its generation that of the sweep's context (R100). -/
def BaselineSlot.current (x : BaselineSlot) (generation : Byte) : Bool :=
  x.record.isSome && x.generation == generation

/-! ### Profiles -/

/-- PROFILE_WRITE (R113). -/
def State.profileWrite (s : State) (profile : Byte) (floor : Half) (persistence stepGap : Byte)
    (bend grown breakDrop : Half) (tolerance blind confirm clearCount : Byte) : Done :=
  match profileOf profile,
    profileFields floor persistence stepGap bend grown breakDrop tolerance blind confirm clearCount with
  | some p, some x => (s.setProfile p x).ok
  | _, _ => s.refuse .range

/-- PROFILE_READ (R114). -/
def State.profileRead (s : State) (profile : Byte) : Done :=
  match profileOf profile with
  | some p => s.okWith (.profile (s.profile p))
  | none => s.refuse .range

/-! ### Conditions -/

/-- A span's place in the re-check queue: position from 1 at the head, with the entry's reason (R144). -/
def placeIn (sp : Span) : Nat → List RecheckEntry → Option (Nat × RecheckReason)
  | _, [] => none
  | n, e :: rest => if e.span = sp then some (n, e.reason) else placeIn sp (n + 1) rest

/-- CONDITION_READ (R144). -/
def State.conditionRead (s : State) (span : Byte) : Done :=
  match spanOf span with
  | some sp =>
    s.okWith (.condition (s.condition sp) (placeIn sp 1 s.conditions.recheck) s.conditions.recheck.length)
  | none => s.refuse .range

/-- CONDITION_CLEAR (R145). -/
def State.conditionClear (s : State) (span : Byte) : Done :=
  match spanOf span with
  | some sp => (s.setBack sp).ok
  | none => s.refuse .range

end Sys2Proof.Machine
end

