-- ==== Sys2Proof/Machine/Plan.lean ====
section
/-! DEFINITION. The sweep plan: cycles with their counts and their CYCLE_END records (R9 to R13), the scan that takes a
plan span (R7), and the commands of the plan and of the groups (R2 to R6, R16 to R18). -/

namespace Sys2Proof.Machine

/-! ### Cycles -/

/-- The number after the last used one (R10). -/
def nextCycleNumber (last : Nat) : Nat :=
  if last < Config.countLimit then last + 1 else 1

/-- The record of a cycle that starts (R10): its four counts are 0. -/
def CycleRecord.fresh (number : Nat) (start : Span) : CycleRecord :=
  { number := number, start := start, planStarted := 0, planEnded := 0, extraStarted := 0, extraEnded := 0 }

/-- A cycle starts at the cursor when an entry is enabled (R10); the caller has seen one of the events of R10. -/
def State.startCycle (s : State) : State :=
  let number := nextCycleNumber s.plan.lastNumber
  if s.anyEnabled then
    (s.withPlan { s.plan with active := some (.fresh number s.plan.cursor), lastNumber := number }).choose
  else s

/-- The sweeps in flight of a cycle: started less ended, plan and extra together (R9). -/
def CycleRecord.inFlight (c : CycleRecord) : Nat :=
  (c.planStarted + c.extraStarted) - (c.planEnded + c.extraEnded)

/-- CYCLE_END put and CYCLE_DONE raised (R13); the record itself is discarded by the caller. -/
def State.putCycleEnd (s : State) (e : EndingCycle) : State :=
  (s.putEdge (.cycleEnd e.cycle.number e.cycle.start e.reason e.cycle.planEnded e.cycle.extraEnded e.notReached)).raise
    .cycleDone

/-- The ACTIVE cycle ends (R10, R11): CYCLE_END at once when no sweep of it is unreported, an ENDING record otherwise (R13). -/
def State.endCycle (s : State) (reason : CycleReason) (notReached : Nat) : State :=
  match s.plan.active with
  | none => s
  | some c =>
    let e : EndingCycle := { cycle := c, reason := reason, notReached := notReached }
    if c.inFlight = 0 then (s.withPlan { s.plan with active := none }).putCycleEnd e
    else s.withPlan { s.plan with active := none, ending := s.plan.ending ++ [e] }

/-- The enabled entries met from index `i` in increasing order, round the entries, before the index `stop` (R11). -/
def enabledBetween (entries : Vector PlanEntry 192) (stop : Span) : Nat → Span → Nat
  | 0, _ => 0
  | n + 1, i =>
    if i = stop then 0
    else (if (tableGet entries i).enabled then 1 else 0) + enabledBetween entries stop n (nextIndex i)

/-- The not-reached count of a cycle that ends with reason CLOSE (R11). -/
def Plan.notReached (p : Plan) (c : CycleRecord) : Nat :=
  if 0 < c.planStarted then enabledBetween p.entries c.start 192 p.cursor
  else (p.entries.toList.filter (·.enabled)).length

/-- The ACTIVE cycle ends with reason CLOSE; nothing when none is ACTIVE (R11). -/
def State.closeCycle (s : State) : State :=
  match s.plan.active with
  | none => s
  | some c => s.endCycle .close (s.plan.notReached c)

/-- A sweep counted as started in a cycle (R12). -/
def CycleRecord.countStart (c : CycleRecord) : CountedAs → CycleRecord
  | .plan => { c with planStarted := bump Config.countLimit c.planStarted }
  | .extra => { c with extraStarted := bump Config.countLimit c.extraStarted }

/-- A sweep counted as ended in a cycle (R12). -/
def CycleRecord.countEnd (c : CycleRecord) : CountedAs → CycleRecord
  | .plan => { c with planEnded := bump Config.countLimit c.planEnded }
  | .extra => { c with extraEnded := bump Config.countLimit c.extraEnded }

/-- The start of a sweep counted in the ACTIVE cycle, if there is one (R12). -/
def State.countStarted (s : State) (as : CountedAs) : State :=
  match s.plan.active with
  | some c => s.withPlan { s.plan with active := some (c.countStart as) }
  | none => s

/-- The end of a sweep counted among the ENDING records: the record of the number with its count, and the others. -/
def countEnding (number : Nat) (as : CountedAs) : List EndingCycle → Option EndingCycle × List EndingCycle
  | [] => (none, [])
  | e :: rest =>
    if e.cycle.number = number then (some { e with cycle := e.cycle.countEnd as }, rest)
    else ((countEnding number as rest).1, e :: (countEnding number as rest).2)

/-- The first ENDING record with the number of `e` replaced by `e`. -/
def replaceEnding (e : EndingCycle) : List EndingCycle → List EndingCycle
  | [] => []
  | x :: rest => if x.cycle.number = e.cycle.number then e :: rest else x :: replaceEnding e rest

/-- The end of a sweep counted among the ENDING records; a cycle with no sweep left unreported puts its CYCLE_END (R13). -/
def State.countEndedEnding (s : State) (n : Nat) (as : CountedAs) : State :=
  match countEnding n as s.plan.ending with
  | (none, _) => s
  | (some e, rest) =>
    if e.cycle.inFlight = 0 then (s.withPlan { s.plan with ending := rest }).putCycleEnd e
    else s.withPlan { s.plan with ending := replaceEnding e s.plan.ending }

/-- The end of a sweep counted in the cycle that bears its number, ACTIVE or ENDING (R12). -/
def State.countEnded (s : State) (cycle : Option Nat) (as : CountedAs) : State :=
  match cycle with
  | none => s
  | some n =>
    match s.plan.active with
    | some c =>
      if c.number = n then s.withPlan { s.plan with active := some (c.countEnd as) } else s.countEndedEnding n as
    | none => s.countEndedEnding n as

/-! ### The scan -/

/-- What the scan of R7 meets first. -/
inductive ScanResult where
  | taken (span : Span)
  | wrap
  | nothing
  deriving DecidableEq, Repr

/-- The scan from index `i` over at most `n` entries (R7): the cycle's start index after a plan sweep wraps, an enabled
entry is taken. -/
def scanPlan (entries : Vector PlanEntry 192) (c : CycleRecord) : Nat → Span → ScanResult
  | 0, _ => .nothing
  | n + 1, i =>
    if i = c.start ∧ 0 < c.planStarted then .wrap
    else if (tableGet entries i).enabled then .taken i
    else scanPlan entries c n (nextIndex i)

/-- A plan span taken: the cursor becomes the index after it (R7, case 2). -/
def State.takeAt (s : State) (sp : Span) : State :=
  s.withPlan { s.plan with cursor := nextIndex sp }

/-- The cycle ends with reason WRAP: the cursor becomes its start index, and a new cycle starts (R5, R7, R10). -/
def State.wrapCycle (s : State) (c : CycleRecord) : State :=
  let ended := (s.endCycle .wrap 0).withPlan { (s.endCycle .wrap 0).plan with cursor := c.start }
  if ended.window.state == .opened then ended.startCycle else ended

/-- The taking of a plan span (R7): a second scan in the new cycle when the first wraps. None when the scan finds none. -/
def State.takePlanSpan (s : State) : Option (State × Span) :=
  match s.plan.active with
  | none => none
  | some c =>
    match scanPlan s.plan.entries c 192 s.plan.cursor with
    | .taken sp => some (s.takeAt sp, sp)
    | .nothing => none
    | .wrap =>
      match (s.wrapCycle c).plan.active with
      | none => none
      | some c' =>
        match scanPlan s.plan.entries c' 192 (s.wrapCycle c).plan.cursor with
        | .taken sp => some ((s.wrapCycle c).takeAt sp, sp)
        | _ => none

/-! ### Plan commands -/

/-- Some enabled entry of another span names the port (R2). -/
def State.portTaken (s : State) (sp : Span) (p : SelPort) : Bool :=
  (List.finRange 192).any fun i => i != sp && (s.entry i).enabled && (s.entry i).port == p

/-- The effects of an accepted PLAN_WRITE beyond the entry (R3); `was` is the entry's enabled field before it. -/
def State.planWritten (s : State) (sp : Span) (was : Bool) : State :=
  if (s.entry sp).enabled then
    if !was && s.window.state == .opened && s.plan.active.isNone then s.startCycle.choose else s.choose
  else (s.removeRecheck sp).choose

/-- PLAN_WRITE (R2, R3). -/
def State.planWrite (s : State) (span enabled port group : Byte) : Done :=
  match spanOf span, portOf port, groupOf group, yesNo enabled with
  | some sp, some p, some g, some en =>
    if en && s.portTaken sp p then s.refuse .conflict
    else ((s.setEntry sp { enabled := en, port := p, group := g }).planWritten sp (s.entry sp).enabled).ok
  | _, _, _, _ => s.refuse .range

/-- PLAN_READ (R4). -/
def State.planRead (s : State) (span : Byte) : Done :=
  match spanOf span with
  | some sp => s.okWith (.plan (s.entry sp) s.plan.cursor (s.plan.active.map (·.number)))
  | none => s.refuse .range

/-- PLAN_SEEK (R6). -/
def State.planSeek (s : State) (index : Byte) : Done :=
  match spanOf index with
  | some i => if s.window.state = .closed then (s.withPlan { s.plan with cursor := i }).ok else s.refuse .busy
  | none => s.refuse .range

/-! ### Group commands -/

/-- GROUP_STAGE (R16). -/
def State.groupStage (s : State) (group : Byte) (pairs : List (Byte × Word)) : Done :=
  match groupOf group with
  | none => s.refuse .range
  | some g =>
    if within 1 9 pairs.length then
      match stageFields (s.group g).pending pairs with
      | some set => (s.setGroup g { s.group g with pending := set, staged := true }).ok
      | none => s.refuse .range
    else s.refuse .range

/-- A pending set may be committed: max class is at or above the base class (R17). -/
def GroupSettings.ordered (g : GroupSettings) : Bool :=
  decide (g.baseClass ≤ g.maxClass)

/-- The pending sets of the named groups copied into their live sets (R17). -/
def State.commitGroups (s : State) : List GroupNo → State
  | [] => s
  | g :: rest =>
    (s.setGroup g { s.group g with live := (s.group g).pending, staged := false }).commitGroups rest

/-- GROUP_COMMIT (R17). -/
def State.groupCommit (s : State) (groups : List Byte) : Done :=
  match groupsOf groups with
  | none => s.refuse .range
  | some gs =>
    if within 1 8 groups.length && gs.all fun g => (s.group g).pending.ordered then (s.commitGroups gs).ok
    else s.refuse .range

/-- GROUP_READ (R18). -/
def State.groupRead (s : State) (group : Byte) : Done :=
  match groupOf group with
  | some g => s.okWith (.group (s.group g))
  | none => s.refuse .range

end Sys2Proof.Machine
end

