-- ==== Sys2Proof/Machine/Condition.lean ====
section
/-! DEFINITION. The span condition unit's judgement of a result: the match with the stored lead (R135), the transitions of
an ANALYSED result (R139 to R141), END_ONLY (R137), ESCALATED (R138), a stale result (R110), the removal of a CONFIRM
entry (R143) and the records and notices of the result (R136, R142). -/

namespace Sys2Proof.Machine

/-- The result of the analysis of a sweep as it reaches the condition unit (R130). -/
structure AnalysisResult where
  kind : AnalysisKind
  context : SweepContext
  outcome : AnalysisOutcome
  measuredEnd : Nat
  found : FindingList
  fallback : Option FindingList
  tolerance : Nat
  confirm : Bool
  clearCount : Nat
  deriving DecidableEq, Repr

/-! ### Judging an ANALYSED result -/

/-- The lead a finding makes (R134). -/
def Finding.lead (f : Finding) : Lead :=
  { kind := f.kind, location := f.location, excess := f.excess }

/-- Distance of two bins. -/
def distance (m n : Nat) : Nat :=
  (m - n) + (n - m)

/-- A finding matches the stored lead (R135). -/
def Lead.matchedBy (l : Lead) (f : Finding) (tolerance : Nat) : Bool :=
  l.kind == f.kind && decide (distance l.location f.location ≤ tolerance)

/-- A finding matches the lead of an entry, when it has one. -/
def ConditionEntry.matchedBy (e : ConditionEntry) (f : Finding) (tolerance : Nat) : Bool :=
  match e.lead with
  | some l => l.matchedBy f tolerance
  | none => false

/-- What the judgement of a result leaves (R139 to R141). -/
structure Verdict where
  entry : ConditionEntry
  cause : Option Cause
  askConfirm : Bool
  leadConfirmed : Bool
  deriving DecidableEq, Repr

/-- No change of the entry and no cause. -/
def Verdict.unchanged (e : ConditionEntry) : Verdict :=
  { entry := e, cause := none, askConfirm := false, leadConfirmed := false }

/-- An entry that becomes CLEAR: lead absent, attempts and streak 0 (R134). -/
def ConditionEntry.cleared (e : ConditionEntry) : ConditionEntry :=
  { e with state := .clear, lead := none, attempts := 0, streak := 0 }

/-- An entry that becomes FAULTED with a lead: attempts and streak 0 (R139, R140). -/
def ConditionEntry.faulted (e : ConditionEntry) (f : Finding) : ConditionEntry :=
  { e with state := .faulted, lead := some f.lead, attempts := 0, streak := 0 }

/-- A clean result (R139 to R141). -/
def ConditionEntry.judgeClean (e : ConditionEntry) (clearCount : Nat) : Verdict :=
  match e.state with
  | .unknown => { Verdict.unchanged e.cleared with cause := some .firstClear }
  | .clear => Verdict.unchanged e
  | .suspect => { Verdict.unchanged e.cleared with cause := some .transient }
  | .faulted =>
    if clearCount ≤ e.streak + 1 then { Verdict.unchanged e.cleared with cause := some .restored }
    else Verdict.unchanged { e with streak := e.streak + 1 }

/-- A result with findings of a span that is UNKNOWN or CLEAR (R139). -/
def ConditionEntry.judgeFresh (e : ConditionEntry) (f : Finding) (confirm : Bool) : Verdict :=
  if confirm then
    { entry := { e with state := .suspect, lead := some f.lead, attempts := 0, streak := 0 },
      cause := some .suspected, askConfirm := true, leadConfirmed := false }
  else { entry := e.faulted f, cause := some .confirmed, askConfirm := false, leadConfirmed := true }

/-- A result with findings of a SUSPECT span (R140). -/
def ConditionEntry.judgeSuspect (e : ConditionEntry) (f : Finding) (tolerance : Nat) : Verdict :=
  if e.matchedBy f tolerance then
    { entry := e.faulted f, cause := some .confirmed, askConfirm := false, leadConfirmed := true }
  else if 3 ≤ e.attempts + 1 then
    { entry := e.faulted f, cause := some .unstable, askConfirm := false, leadConfirmed := false }
  else
    { entry := { e with lead := some f.lead, attempts := e.attempts + 1 }, cause := some .suspected,
      askConfirm := true, leadConfirmed := false }

/-- A result with findings of a FAULTED span (R141). -/
def ConditionEntry.judgeFaulted (e : ConditionEntry) (f : Finding) (tolerance : Nat) : Verdict :=
  if e.matchedBy f tolerance then
    { entry := { e with streak := 0 }, cause := none, askConfirm := false, leadConfirmed := true }
  else
    { entry := { e with lead := some f.lead, streak := 0 }, cause := some .changed, askConfirm := false,
      leadConfirmed := false }

/-- The transitions of an ANALYSED result (section 8.3), by the span's state and the lead finding. -/
def ConditionEntry.judge (e : ConditionEntry) (l : List Finding) (tolerance : Nat) (confirm : Bool)
    (clearCount : Nat) : Verdict :=
  match l with
  | [] => e.judgeClean clearCount
  | f :: _ =>
    match e.state with
    | .unknown | .clear => e.judgeFresh f confirm
    | .suspect => e.judgeSuspect f tolerance
    | .faulted => e.judgeFaulted f tolerance

/-! ### Taking a result -/

/-- The judgement of a result as the records report it: the state it leaves, the list written, the outcome, the cause. -/
structure Judged where
  state : State
  outcome : AnalysisOutcome
  list : FindingList
  cause : Option Cause

/-- The last fields of an entry become those of the result (R110, R136 step 2). -/
def ConditionEntry.withLast (e : ConditionEntry) (r : AnalysisResult) : ConditionEntry :=
  { e with lastOutcome := some r.outcome, lastEnd := some r.measuredEnd, lastCycle := r.context.cycle }

/-- The lead finding is written CONFIRMED when the verdict says so; every other finding is NEW (R142). -/
def FindingList.mark (l : FindingList) (leadConfirmed : Bool) : FindingList :=
  match l.findings, leadConfirmed with
  | f :: rest, true => { l with findings := { f with status := .confirmed } :: rest }
  | _, _ => l

/-- The notice of a cause (R142). -/
def State.raiseCause (s : State) : Option Cause → State
  | some .confirmed | some .unstable | some .changed => s.raise .faultConfirmed
  | some .restored => s.raise .spanRestored
  | _ => s

/-- The requests and removals of a verdict for a span: CONFIRM asked for (R139, R140), the CONFIRM entry of a span that has
left SUSPECT removed (R143). -/
def State.applyVerdict (s : State) (sp : Span) (was : Condition) (v : Verdict) : State :=
  let judged := s.setCondition sp v.entry
  if v.askConfirm then judged.requestTail sp .confirm
  else if was == .suspect && v.entry.state != .suspect then judged.removeConfirm sp
  else judged

/-- An ANALYSED result, or an escalation that is exhausted, judged by the transitions (R138 to R141); the last fields stand. -/
def State.judgeAnalysed (s : State) (r : AnalysisResult) (l : FindingList) : Judged :=
  let e := s.condition r.context.span
  let v := e.judge l.findings r.tolerance r.confirm r.clearCount
  { state := (s.applyVerdict r.context.span e.state v).raiseCause v.cause, outcome := .analysed,
    list := l.mark v.leadConfirmed, cause := v.cause }

/-- A list with no finding. -/
def FindingList.empty : FindingList :=
  { findings := [], more := false }

/-- The class of an escalation: the class used plus 1 (R122, R138); at 5 it stays (an escalated class is below the max). -/
def nextClass (c : PulseClass) : PulseClass :=
  if h : c.val + 1 < 6 then ⟨c.val + 1, h⟩ else c

/-- An ESCALATED result (R138): queued or updated, it changes nothing more; not queued, it is judged with its fallback list. -/
def State.judgeEscalated (s : State) (r : AnalysisResult) : Judged :=
  let asked := s.requestTail r.context.span (.escalate (nextClass r.context.cls))
  match s.recheckAnswer r.context.span with
  | .joined | .updated => { state := asked, outcome := .escalated, list := .empty, cause := none }
  | .dropped | .refused => asked.judgeAnalysed r (r.fallback.getD .empty)

/-- The judgement of a result that finds its slot current, by its outcome (R136 step 3). -/
def State.judgeCurrent (s : State) (r : AnalysisResult) : Judged :=
  match r.outcome with
  | .endOnly => { state := s, outcome := .endOnly, list := .empty, cause := none }
  | .escalated => s.judgeEscalated r
  | .analysed => s.judgeAnalysed r r.found

/-- A result taken by the condition unit up to its records (R136): the last fields, then the judgement unless it is stale
(R110). -/
def State.judgeResult (s : State) (r : AnalysisResult) : Judged :=
  let sp := r.context.span
  let lasted := s.setCondition sp ((s.condition sp).withLast r)
  if (s.slot sp).current r.context.generation then lasted.judgeCurrent r
  else { state := lasted, outcome := r.outcome, list := r.found, cause := none }

/-! ### Records -/

/-- The FINDING records of a list, with their indices from 1 (R152). -/
def findingRecords (sp : Span) : Nat → List Finding → List Record
  | _, [] => []
  | n, f :: rest => .finding sp n f :: findingRecords sp (n + 1) rest

/-- The SPAN_RESULT of an analysed sweep (R136). -/
def State.analysedResult (s : State) (r : AnalysisResult) (j : Judged) (retained : Bool) : SpanResult :=
  { span := r.context.span, reason := .sweep r.context.reason, outcome := .analysis j.outcome, cls := r.context.cls,
    accepted := r.context.accepted, rejected := r.context.rejected, lost := r.context.lost,
    measuredEnd := some r.measuredEnd, findingCount := j.list.findings.length, more := j.list.more,
    retained := retained, before := (s.condition r.context.span).state,
    after := (j.state.condition r.context.span).state, cause := j.cause, cycle := r.context.cycle,
    endTime := s.window.time }

/-- A result taken whole (R136): judged, its records written into the reservation, its end counted in its cycle (R12). -/
def State.takeResult (s : State) (r : AnalysisResult) (retained : Bool) : State :=
  let j := s.judgeResult r
  (j.state.putWork
    (.spanResult (s.analysedResult r j retained) :: findingRecords r.context.span 1 j.list.findings)).countEnded
      r.context.cycle r.context.countedAs

end Sys2Proof.Machine
end

