-- ==== Sys2Proof/Machine/Analysis.lean ====
section
/-! DEFINITION. The trace analyser: the taking of a bank with its snapshots and its mode (R108, R112, R116, R118), the end
search (R119, R120), the break test and the fade (R121, R122), the deviation scan with its gates (R123 to R127), the
finding lists (R128, R129), and the completions (R130 to R132). -/

namespace Sys2Proof.Machine

/-! ### Taking a bank -/

/-- The mode and the launch bin used, by the first row of R118 that applies. -/
def chooseMode (kind : AnalysisKind) (c : SweepContext) (snapshot : BaselineSlot) : AnalysisMode × Nat :=
  match snapshot.record with
  | none => (.endOnly, 0)
  | some b =>
    if (kind == .sweep && snapshot.generation != c.generation) || b.binLength != c.settings.binLength then (.endOnly, 0)
    else if b.cls != c.cls then (.endTest, b.launch)
    else (.full, b.launch)

/-- The analysis record of R115, as the taking makes it (R116); the measured end and the lists are filled at completion. -/
def State.newRecord (s : State) (n : BankName) (kind : AnalysisKind) (c : SweepContext) (p : ProfileNo) :
    AnalysisRecord :=
  { bank := n, kind := kind, context := c, accepted := (s.bank n).accepted, profile := s.profile p,
    snapshot := s.slot c.span, mode := (chooseMode kind c (s.slot c.span)).1,
    launchUsed := (chooseMode kind c (s.slot c.span)).2, measuredEnd := 0, found := .empty, fallback := none }

/-- The ready list without its head, and the analyser BUSY with a record (R83, R116). -/
def State.startAnalysis (s : State) (rest : List BankName) (r : AnalysisRecord) : State :=
  (s.withBanks { s.banks with ready := rest }).withAnalyser { s.analyser with record := some r }

/-- The analyser takes the head of the ready list when it is IDLE (R83, R116). -/
def State.takeReady (s : State) : State :=
  match s.analyser.record, s.banks.ready with
  | none, n :: rest =>
    match (s.bank n).context, (s.bank n).state, (s.bank n).reanalysis with
    | some c, .full, _ =>
      (s.setBank n { s.bank n with state := .analysing }).startAnalysis rest (s.newRecord n .sweep c c.settings.profile)
    | some c, .held, .waiting p =>
      (s.setBank n { s.bank n with state := .analysing, reanalysis := .running }).startAnalysis rest
        (s.newRecord n .reanalysis c p)
    | _, _, _ => s
  | _, _ => s

/-! ### Levels and the end search -/

/-- What the analysis reads of a trace: averaged levels by bin, each computed from the sums (R119), and the bin count. -/
structure Trace where
  sums : Sums
  accepted : Nat
  bins : Nat
  deriving DecidableEq, Repr

/-- L[b] (R119): the sum by the accepted shots, truncated. -/
def Trace.level (t : Trace) (b : Nat) : Nat :=
  (t.sums.read b).toNat / t.accepted

/-- The `n` bins from `b` on are each at or below the floor level (R120). -/
def Trace.allLow (t : Trace) (floor : Nat) : Nat → Nat → Bool
  | 0, _ => true
  | n + 1, b => decide (t.level b ≤ floor) && t.allLow floor n (b + 1)

/-- The end search over the next `n` bins from `b` on (R120). -/
def Trace.searchEnd (t : Trace) (floor persistence : Nat) : Nat → Nat → Nat
  | 0, _ => t.bins
  | n + 1, b =>
    if decide (b + persistence ≤ t.bins) && t.allLow floor persistence b then b
    else t.searchEnd floor persistence n (b + 1)

/-- M (R120): the first run of P bins at or below the floor from the launch bin used on, else the bin count. -/
def Trace.measuredEnd (t : Trace) (p : Profile) (launch : Nat) : Nat :=
  t.searchEnd p.floor p.persistence (t.bins - launch) launch

/-! ### Break test -/

/-- What the break test decides (R121). -/
inductive EndVerdict where
  | reached
  | unreached
  | broken
  | fade
  deriving DecidableEq, Repr

/-- The drop of R121, case 3: L[d] less L[M], d the greater of the launch bin used and M - G. -/
def Trace.drop (t : Trace) (p : Profile) (launch m : Nat) : Int :=
  (t.level (max launch (m - p.stepGap)) : Int) - t.level m

/-- The break test (R121). -/
def Trace.breakTest (t : Trace) (p : Profile) (launch e m : Nat) : EndVerdict :=
  if e ≤ m + p.tolerance then .reached
  else if m = t.bins then .unreached
  else if m = launch then .broken
  else if (p.breakDrop : Int) ≤ t.drop p launch m then .broken
  else .fade

/-! ### Expected level and deviation -/

/-- A zone with its start bin and its index from 1 (R97, R126). -/
structure PlacedZone where
  start : Nat
  index : Nat
  zone : Zone
  deriving DecidableEq, Repr

/-- The zones with their starts: zone 1 starts at the launch bin, each later one after the end of the one before (R97). -/
def placeZones : Nat → Nat → List Zone → List PlacedZone
  | _, _, [] => []
  | start, index, z :: rest =>
    { start := start, index := index, zone := z } :: placeZones (z.endBin + 1) (index + 1) rest

/-- The zones of a baseline with their starts (R97). -/
def Baseline.placed (b : Baseline) : List PlacedZone :=
  placeZones b.launch 1 b.zones

/-- X[b] in a zone (R123): the straight line from start level to end level, truncated toward zero. -/
def PlacedZone.expected (z : PlacedZone) (b : Nat) : Int :=
  if z.zone.endBin = z.start then z.zone.startLevel
  else
    z.zone.startLevel +
      Int.tdiv (((z.zone.endLevel : Int) - z.zone.startLevel) * ((b : Int) - z.start)) ((z.zone.endBin : Int) - z.start)

/-- The zone a bin lies in (R97). -/
def zoneAt (b : Nat) (zs : List PlacedZone) : Option PlacedZone :=
  zs.find? fun z => decide (z.start ≤ b) && decide (b ≤ z.zone.endBin)

/-- dev[b] (R123): the expected level less the averaged level. -/
def Trace.deviation (t : Trace) (zs : List PlacedZone) (b : Nat) : Int :=
  match zoneAt b zs with
  | some z => z.expected b - t.level b
  | none => -(t.level b : Int)

/-! ### Gates -/

/-- A gate: its bins, and the first tested landmark with its zone's index, if it holds one (R125, R126). -/
structure LandmarkGate where
  first : Nat
  last : Nat
  tested : Option (Nat × Nat)
  deriving DecidableEq, Repr

/-- The bins after a landmark that its gate takes in: the tolerance, and the blind after a CONNECTOR (R125). -/
def Zone.reach (z : Zone) (p : Profile) : Nat :=
  if z.kind = .connector then p.tolerance + p.blind else p.tolerance

/-- The gate of a landmark clipped to the scan range `lo` to `hi` (R125); none when no bin of it is left. -/
def gateOf (p : Profile) (lo hi : Nat) (z : PlacedZone) : Option LandmarkGate :=
  let l := z.zone.endBin
  if lo ≤ l + z.zone.reach p ∧ l - p.tolerance ≤ hi then
    some
      { first := max lo (l - p.tolerance), last := min hi (l + z.zone.reach p),
        tested := if lo ≤ l ∧ l ≤ hi then some (l, z.index) else none }
  else none

/-- Two gates joined (R125): the first tested landmark is the one met first. -/
def LandmarkGate.join (x y : LandmarkGate) : LandmarkGate :=
  { first := min x.first y.first, last := max x.last y.last,
    tested := match x.tested with
      | some l => some l
      | none => y.tested }

/-- A gate joined with those after it while they overlap or adjoin (R125); the gates come in order of their first bins. -/
def joinFrom (x : LandmarkGate) : List LandmarkGate → List LandmarkGate
  | [] => [x]
  | y :: ys => if y.first ≤ x.last + 1 then joinFrom (x.join y) ys else x :: joinFrom y ys

/-- The gates in increasing order of their landmarks, those that overlap or adjoin joined (R125). -/
def joinGates : List LandmarkGate → List LandmarkGate
  | [] => []
  | x :: rest => joinFrom x rest

/-- The gates of the landmarks: the end bins of all zones but the last (R97, R125). -/
def gatesFor (p : Profile) (lo hi : Nat) (zs : List PlacedZone) : List LandmarkGate :=
  joinGates (zs.dropLast.filterMap (gateOf p lo hi))

/-- The gate a bin lies in. -/
def gateAt (gates : List LandmarkGate) (b : Nat) : Option LandmarkGate :=
  gates.find? fun g => decide (g.first ≤ b) && decide (b ≤ g.last)

/-! ### The scan -/

/-- What the scan reads: trace, zones, gates, the last bin of its range, and the profile. -/
structure ScanView where
  trace : Trace
  zones : List PlacedZone
  gates : List LandmarkGate
  last : Nat
  profile : Profile
  deriving DecidableEq, Repr

def ScanView.dev (v : ScanView) (b : Nat) : Int :=
  v.trace.deviation v.zones b

/-- The window of `n` bins from `b`: in the range, in no gate, each rising at least the bend threshold above r (R127). -/
def ScanView.rises (v : ScanView) (r : Int) : Nat → Nat → Bool
  | 0, _ => true
  | n + 1, b =>
    decide (b ≤ v.last) && (gateAt v.gates b).isNone && decide ((v.profile.bend : Int) ≤ v.dev b - r) &&
      v.rises r n (b + 1)

/-- An excess recorded (R128): above 65535 it is recorded as 65535. -/
def excessOf (x : Int) : Nat :=
  min 65535 x.toNat

/-- The grown test at the last bin of a gate (R126). -/
def ScanView.grownTest (v : ScanView) (r : Int) (g : LandmarkGate) (b : Nat) : List Finding :=
  match g.tested with
  | some (l, index) =>
    if (v.profile.grown : Int) ≤ v.dev b - r then
      [{ kind := .grown, location := l, excess := excessOf (v.dev b - r), zone := some index, status := .new }]
    else []
  | none => []

/-- The scan from bin `b` with reference r (R124): at most `n` bins are visited. -/
def ScanView.scan (v : ScanView) : Nat → Nat → Int → List Finding
  | 0, _, _ => []
  | n + 1, b, r =>
    if v.last < b then []
    else
      match gateAt v.gates b with
      | some g => if b < g.last then v.scan n (b + 1) r else v.grownTest r g b ++ v.scan n (b + 1) (v.dev b)
      | none =>
        if v.rises r v.profile.persistence b then
          let top := v.dev (b + v.profile.persistence - 1)
          { kind := .bend, location := b, excess := excessOf (top - r), zone := none, status := .new } ::
            v.scan n (b + v.profile.persistence) top
        else v.scan n (b + 1) (min r (v.dev b))

/-- The deviation scan of a FULL analysis (R124): from the launch bin to the lesser of M and E, less 1. -/
def Trace.scanFindings (t : Trace) (p : Profile) (b : Baseline) (m : Nat) : List Finding :=
  let stop := min m b.endBin
  if stop ≤ b.launch then []
  else
    let v : ScanView :=
      { trace := t, zones := b.placed, gates := gatesFor p b.launch (stop - 1) b.placed, last := stop - 1, profile := p }
    v.scan (stop - b.launch) b.launch (v.dev b.launch)

/-! ### Findings and outcome -/

/-- The break test's finding (R121, R128): excess 0, no zone. -/
def endFinding (k : FindingKind) (m : Nat) : Finding :=
  { kind := k, location := m, excess := 0, zone := none, status := .new }

/-- The list of R129: the first 7 findings of the scan, then the break test's, and the more flag. -/
def formList (scan : List Finding) (tail : List Finding) : FindingList :=
  { findings := scan.take 7 ++ tail, more := decide (7 < scan.length) }

/-- The trace of a record: the sums of its bank, read in place (R119). -/
def State.traceOf (s : State) (r : AnalysisRecord) : Trace :=
  { sums := (s.bank r.bank).sums, accepted := r.accepted, bins := r.context.settings.binCount }

/-- The scan's findings by the mode (R118, R124). -/
def AnalysisRecord.scanned (r : AnalysisRecord) (t : Trace) (b : Baseline) (m : Nat) : List Finding :=
  match r.mode with
  | .full => t.scanFindings r.profile b m
  | _ => []

/-- A FADE is escalated: a sweep whose class used is below the max class (R122). -/
def AnalysisRecord.escalates (r : AnalysisRecord) : Bool :=
  r.kind == .sweep && decide (r.context.cls < r.context.settings.maxClass)

/-- The outcome and the lists of R129 and R130, from the verdict on the end. -/
def AnalysisRecord.conclude (r : AnalysisRecord) (scan : List Finding) (m : Nat) :
    EndVerdict → AnalysisOutcome × FindingList × Option FindingList
  | .reached => (.analysed, formList scan [], none)
  | .unreached => (.analysed, formList scan [endFinding .unreached m], none)
  | .broken => (.analysed, formList scan [endFinding .fibreBreak m], none)
  | .fade =>
    if r.escalates then (.escalated, .empty, some (formList scan [endFinding .unreached m]))
    else (.analysed, formList scan [endFinding .unreached m], none)

/-- The analysis of a trace under a record, from the end search to the lists (R120 to R130). -/
def AnalysisRecord.analyse (r : AnalysisRecord) (t : Trace) : AnalysisOutcome × FindingList × Option FindingList :=
  let m := t.measuredEnd r.profile r.launchUsed
  match r.mode, r.snapshot.record with
  | .endOnly, _ => (.endOnly, .empty, none)
  | _, none => (.endOnly, .empty, none)
  | _, some b => r.conclude (r.scanned t b m) m (t.breakTest r.profile r.launchUsed b.endBin m)

/-- The result of the analysis of a record (R130). -/
def AnalysisRecord.result (r : AnalysisRecord) (t : Trace) : AnalysisResult :=
  { kind := r.kind, context := r.context, outcome := (r.analyse t).1,
    measuredEnd := t.measuredEnd r.profile r.launchUsed, found := (r.analyse t).2.1, fallback := (r.analyse t).2.2,
    tolerance := r.profile.tolerance, confirm := r.profile.confirm, clearCount := r.profile.clearCount }

/-! ### Completion -/

/-- The analyser IDLE with no record (R115). -/
def State.idleAnalyser (s : State) : State :=
  s.withAnalyser { s.analyser with record := none }

/-- ANALYSIS_COMPLETION (R131): the bank's next state (R84), the result taken (R136), the analyser IDLE and at the next. -/
def State.completeAnalysis (s : State) (r : AnalysisRecord) : State :=
  let result := r.result (s.traceOf r)
  let settled := s.settleBank r.bank r.context
  (((settled.takeResult result (s.keepsTrace r.bank r.context)).idleAnalyser).choose).takeReady

/-- The SPAN_RESULT of a reanalysis (R132). -/
def State.reanalysisResult (s : State) (x : AnalysisResult) : SpanResult :=
  { span := x.context.span, reason := .reanalysis, outcome := .analysis x.outcome, cls := x.context.cls,
    accepted := x.context.accepted, rejected := x.context.rejected, lost := x.context.lost,
    measuredEnd := some x.measuredEnd, findingCount := x.found.findings.length, more := x.found.more,
    retained := true, before := (s.condition x.context.span).state, after := (s.condition x.context.span).state,
    cause := none, cycle := none, endTime := s.window.time }

/-- REANALYSIS_COMPLETION (R92, R132): the records written, the bank back to HELD or FREE, the analyser at the next. -/
def State.completeReanalysis (s : State) (r : AnalysisRecord) : State :=
  let x := r.result (s.traceOf r)
  (((s.putWork (.spanResult (s.reanalysisResult x) :: findingRecords x.context.span 1 x.found.findings)).backToHeld
    r.bank).idleAnalyser).takeReady

/-- The completion of the analysis in flight when it is of a sweep (R131). -/
def State.analysisCompletes (s : State) : State :=
  match s.analyser.record with
  | some r => if r.kind = .sweep then s.completeAnalysis r else s
  | none => s

/-- The completion of the analysis in flight when it is a reanalysis (R132). -/
def State.reanalysisCompletes (s : State) : State :=
  match s.analyser.record with
  | some r => if r.kind = .reanalysis then s.completeReanalysis r else s
  | none => s

end Sys2Proof.Machine
end

