-- ==== Sys2Proof/Machine/Engine.lean ====
section
/-! DEFINITION. The sweep engine while it holds a sweep: FIRE requests under the admission condition (R46, R49, R65 to
R67), the decision of an outcome with its effect on the port (R53, R76), the judgements of shots (R47, R48, R50), the
selector (R42 to R45), the hot hold (R52) and the cut (R61). -/

namespace Sys2Proof.Machine

/-! ### Admission and FIRE -/

/-- The samples not yet received of an outstanding shot (R67). -/
def Intake.unreceived (i : Intake) (x : Shot) : Nat :=
  match i with
  | .opened b => if b.tag = x.tag then x.bins - b.count else x.bins
  | _ => x.bins

/-- The samples not yet received of all outstanding shots (R67). -/
def Port.expected (p : Port) : Nat :=
  (p.outstanding.map p.intake.unreceived).sum

/-- The admission condition for a FIRE of `n` bins (R67). -/
def Port.admits (p : Port) (n : Nat) : Bool :=
  decide (p.fifo.length + p.expected + n ≤ Config.fifoCapacity)

/-- A FIRE issued for the sweep of context `c` (R65, R66). -/
def State.fire (s : State) (c : SweepContext) (dark : Bool) : State :=
  (s.withPort { s.port with
    outstanding := s.port.outstanding ++
      [{ tag := s.port.tagCounter, bins := c.settings.binCount, dark := dark, discard := false }],
    tagCounter := nextByte s.port.tagCounter }).withOutputs
    { s.outputs with fires := s.outputs.fires ++
      [{ tag := s.port.tagCounter, cls := c.cls, binCount := c.settings.binCount, binLength := c.settings.binLength,
         dark := dark }] }

/-- The dark FIRE of DARK_CHECK: one at a time, under the admission condition, whatever the gate (R46). -/
def State.darkTest (s : State) (c : SweepContext) : State :=
  if s.port.outstanding.isEmpty && s.port.admits c.settings.binCount then s.fire c true else s

/-- The first three conditions of R49: a FIRE is due. -/
def State.fireDue (s : State) (c : SweepContext) : Bool :=
  decide (s.port.outstanding.length < 2) &&
    decide (c.accepted + s.port.outstanding.length < c.settings.shotCount) && s.port.admits c.settings.binCount

/-- One test of R49: a FIRE that is due is issued when the gate is COOL; HOT makes the engine enter HOT_HOLD with its
30 s timer (R52). -/
def State.fireTest (s : State) (c : SweepContext) : State :=
  if s.engine.state == .firing && s.fireDue c then
    if s.port.gate == .cool then s.fire c false
    else s.withEngine { s.engine with state := .hotHold, hotHoldTimer := true }
  else s

/-- The engine tests its firing conditions again (R46, R49, R67): two FIREs may follow one another at once. -/
def State.retest (s : State) : State :=
  match s.context with
  | none => s
  | some c =>
    match s.engine.state with
    | .darkCheck => s.darkTest c
    | .firing => (s.fireTest c).fireTest c
    | _ => s

/-! ### Deciding an outcome -/

/-- The samples of an accumulation block still in the FIFO (R74). -/
def AccumBlock.left (b : AccumBlock) : Nat :=
  b.bins - b.summed

/-- The block whose summing has begun goes on uncounted; none when its last sample has been added (R76). -/
def withheldHead (b : AccumBlock) : List AccumBlock :=
  if b.left = 0 then [] else [{ b with counted := false }]

/-- What the port does when the engine decides an outcome (R76): outstanding shots are marked for discard, the blocks
whose summing has not begun leave the list with their samples, the head goes on uncounted. -/
def Port.discardSweep (p : Port) : Port :=
  let marked := p.outstanding.map fun x => { x with discard := true }
  match p.accumulation with
  | [] => { p with outstanding := marked }
  | head :: rest =>
    let gone := (rest.map (·.bins)).sum
    { p with
      outstanding := marked, accumulation := withheldHead head,
      fifo := p.fifo.take head.left ++ p.fifo.drop (head.left + gone) }

/-- The engine decides an outcome (R53): timers stopped, tallies frozen, DRAINING until the closing actions (log 1). -/
def State.decideOutcome (s : State) (o : EngineOutcome) : State :=
  (s.withPort s.port.discardSweep).withEngine
    { s.engine with state := .draining, outcome := some o, settleTimer := none, hotHoldTimer := false }

/-- The accepted tally has reached the shot count: only summing remains (R51). -/
def SweepContext.full (c : SweepContext) : Bool :=
  decide (c.settings.shotCount ≤ c.accepted)

/-- The sweep in flight can be cut or pre-empted: SELECTING to HOT_HOLD, but for FIRING at the shot count (R58, R61). -/
def State.stoppable (s : State) (c : SweepContext) : Bool :=
  match s.engine.state with
  | .selecting | .settling | .darkCheck | .hotHold => true
  | .firing => !c.full
  | _ => false

/-- The window clock asks for a cut (R61). -/
def State.cut (s : State) : State :=
  match s.context with
  | none => s
  | some c => if s.stoppable c then s.decideOutcome .cut else s

/-! ### Judgements -/

/-- What the port tells the engine of a shot (R70, R72, R75). -/
inductive Judgement where
  | accepted (mean : Nat)
  | torn
  | saturated
  | lost
  deriving DecidableEq, Repr

/-- A judgement in the tallies (R47, R48, R50): the accepted tally counts shots that are not dark. -/
def SweepContext.tally (c : SweepContext) (dark : Bool) : Judgement → SweepContext
  | .accepted _ => { c with accepted := if dark then c.accepted else bump 65536 c.accepted, consecutiveLost := 0 }
  | .torn | .saturated => { c with rejected := bump 255 c.rejected, consecutiveLost := 0 }
  | .lost => { c with lost := bump Config.countLimit c.lost, consecutiveLost := c.consecutiveLost + 1 }

/-- The outcome a judgement decides, from the tallies after it (R47, R48, R50). -/
def SweepContext.outcomeOf (c : SweepContext) (dark : Bool) : Judgement → Option EngineOutcome
  | .accepted mean => if dark && decide (c.settings.litLevel ≤ mean) then some .lit else none
  | .saturated => if dark || decide (c.settings.rejectLimit ≤ c.rejected) then some .lit else none
  | .torn => if c.settings.rejectLimit ≤ c.rejected then some .lit else none
  | .lost => if 3 ≤ c.consecutiveLost then some .mute else none

/-- An outcome decided by a judgement; MUTE raises FRONT_END_MUTE (R48). -/
def State.endByJudgement (s : State) (o : EngineOutcome) : State :=
  if o = .mute then (s.decideOutcome o).raise .frontEndMute else s.decideOutcome o

/-- A judgement of a sweep in DARK_CHECK, FIRING or HOT_HOLD: tallies, then an outcome or the next FIRE (R47 to R50). -/
def State.takeJudgement (s : State) (c : SweepContext) (dark : Bool) (j : Judgement) : State :=
  match (c.tally dark j).outcomeOf dark j with
  | some o => (s.setContext (c.tally dark j)).endByJudgement o
  | none =>
    match dark, j with
    | true, .accepted _ => ((s.setContext (c.tally dark j)).setEngineState .firing).retest
    | _, _ => (s.setContext (c.tally dark j)).retest

/-- A judgement is delivered to the engine (R47, R50, R54): in DRAINING it changes nothing. -/
def State.deliver (s : State) (dark : Bool) (j : Judgement) : State :=
  match s.context with
  | none => s
  | some c =>
    match s.engine.state, dark with
    | .darkCheck, true => s.takeJudgement c true j
    | .firing, false => s.takeJudgement c false j
    | .hotHold, false => s.takeJudgement c false j
    | _, _ => s

/-! ### The selector -/

/-- SELECT sent for a port, the selector timer started with the setting (R42, R43). -/
def State.sendSelect (s : State) (p : SelPort) : State :=
  (s.withEngine { s.engine with
    state := .selecting, selector := .moving p, selectorTimer := some s.engine.selectorTimeout }).withOutputs
    { s.outputs with selects := s.outputs.selects ++ [p] }

/-- The engine enters SETTLING: the settle timer starts with the context's settle time (R45). -/
def State.enterSettling (s : State) (c : SweepContext) : State :=
  s.withEngine { s.engine with state := .settling, settleTimer := some c.settings.settleTime }

/-- The engine enters DARK_CHECK and asks for a dark FIRE (R46). -/
def State.enterDarkCheck (s : State) : State :=
  (s.setEngineState .darkCheck).retest

/-- The table of R43, on entering SELECTING and when an inherited request is finished. -/
def State.select (s : State) (c : SweepContext) : State :=
  match s.engine.selector with
  | .atPort p settled =>
    if p = c.port then
      if settled then s.enterDarkCheck else s.enterSettling c
    else s.sendSelect c.port
  | .moving _ => s.setEngineState .selecting
  | .unknown => s.sendSelect c.port

/-- What a change of the selector state out of MOVING, of a request for port `p`, does to a sweep in SELECTING (R44). -/
def State.selectorLeft (s : State) (p : SelPort) : State :=
  match s.context with
  | none => s
  | some c =>
    if s.engine.state == .selecting then
      if s.engine.selector == .unknown && p == c.port then s.decideOutcome .noPort else s.select c
    else s

/-- The selector request for port `p` ends with a new selector state; its timer is stopped (R42, R44). -/
def State.selectorSettles (s : State) (p : SelPort) (sel : Selector) : State :=
  (s.withEngine { s.engine with selector := sel, selectorTimer := none }).selectorLeft p

/-- A failed selector request for port `p` (R42): UNKNOWN, SELECTOR_FAULT raised. -/
def State.selectorFails (s : State) (p : SelPort) : State :=
  (s.raise .selectorFault).selectorSettles p .unknown

/-- SET naming a port arrives (R42). -/
def State.selectorSet (s : State) (port : Byte) : State :=
  match s.engine.selector with
  | .moving p => if port.toNat = p.val then s.selectorSettles p (.atPort p false) else s.selectorFails p
  | _ => s

/-- FAULT arrives (R42). -/
def State.selectorFault (s : State) : State :=
  match s.engine.selector with
  | .moving p => s.selectorFails p
  | _ => s

/-- The selector timer expires, which it can only while it runs (R42). -/
def State.selectorExpires (s : State) : State :=
  match s.engine.selector, s.engine.selectorTimer with
  | .moving p, some _ => s.selectorFails p
  | _, _ => s

/-- The settle timer expires: AT the port, settled, and DARK_CHECK (R45). -/
def State.settleExpires (s : State) : State :=
  match s.engine.state, s.engine.settleTimer, s.context with
  | .settling, some _, some c =>
    (s.withEngine { s.engine with selector := .atPort c.port true, settleTimer := none }).enterDarkCheck
  | _, _, _ => s

/-- The hot-hold timer expires while the engine is in HOT_HOLD: the sweep ends HOT (R52). -/
def State.hotHoldExpires (s : State) : State :=
  if s.engine.state == .hotHold && s.engine.hotHoldTimer then s.decideOutcome .hot else s

/-- The thermal gate has turned COOL: HOT_HOLD is left for FIRING, where R49 is tested at once (R52). -/
def State.resumeFiring (s : State) : State :=
  if s.engine.state == .hotHold then
    (s.withEngine { s.engine with state := .firing, hotHoldTimer := false }).retest
  else s.retest

end Sys2Proof.Machine
end

