-- ==== Sys2Proof/Machine/Intake.lean ====
section
/-! DEFINITION. The acquisition port's side toward the front end: header, sample and trailer words (R64, R68 to R71), lost
shots (R72), accumulation into the banks (R74, R76) and the thermal gate (R77). -/

namespace Sys2Proof.Machine

/-- The outstanding entry of a tag (R68). -/
def Port.shot (p : Port) (tag : Byte) : Option Shot :=
  p.outstanding.find? fun x => x.tag == tag

/-- The outstanding list without the entry of a tag (R66). -/
def Port.without (p : Port) (tag : Byte) : List Shot :=
  p.outstanding.filter fun x => x.tag != tag

/-- The samples of the open block leave the FIFO, where they are the youngest (R70 to R72). -/
def Port.dropOpen (p : Port) (b : OpenBlock) : List Half :=
  p.fifo.take (p.fifo.length - b.count)

/-! ### Header -/

/-- A stray header: STRAY, and the stray count rises, stopping at 65535 (R68, R73). -/
def Port.strayHeader (p : Port) : Port :=
  { p with intake := .stray, stray := bump Config.countLimit p.stray }

/-- A header taken while no block is open (R68). -/
def Port.takeHeader (p : Port) (tag : Byte) (bins : Half) : Port :=
  match p.shot tag with
  | some _ =>
    { p with intake := .opened { tag := tag, headerBins := bins.toNat, count := 0, overLength := false, darkSum := 0 } }
  | none => p.strayHeader

/-- The open block is torn by a header: entry and samples go, the judgement torn is delivered (R71). -/
def State.tear (s : State) (b : OpenBlock) : State :=
  match s.port.shot b.tag with
  | some x =>
    (s.withPort { s.port with
      intake := .noBlock, outstanding := s.port.without b.tag, fifo := s.port.dropOpen b }).deliver x.dark .torn
  | none => s.withPort { s.port with intake := .noBlock, fifo := s.port.dropOpen b }

/-- A header word (R68): an open block is torn first, and the engine has taken the tear's judgement (log 13). -/
def State.headerArrives (s : State) (tag : Byte) (bins : Half) : State :=
  match s.port.intake with
  | .opened b => (s.tear b).withPort ((s.tear b).port.takeHeader tag bins)
  | _ => s.withPort (s.port.takeHeader tag bins)

/-! ### Sample -/

/-- A sample of an open block below its bins expected enters the FIFO, and the running sum of a dark block (R69). -/
def OpenBlock.take (b : OpenBlock) (dark : Bool) (level : Half) : OpenBlock :=
  { b with count := b.count + 1, darkSum := if dark then b.darkSum + level.toNat else b.darkSum }

/-- A sample word (R69). -/
def State.sampleArrives (s : State) (level : Half) : State :=
  match s.port.intake with
  | .opened b =>
    match s.port.shot b.tag with
    | some x =>
      if b.count < x.bins then
        s.withPort { s.port with fifo := s.port.fifo ++ [level], intake := .opened (b.take x.dark level) }
      else s.withPort { s.port with intake := .opened { b with overLength := true } }
    | none => s
  | _ => s

/-! ### Trailer -/

/-- The judgement of a block at its trailer, the first test that applies (R70); the mean of a dark block is its running sum
by the bins expected, truncated (R75). -/
def judgeBlock (x : Shot) (b : OpenBlock) (saturated : Bool) : Judgement :=
  if b.overLength || b.count != x.bins || b.headerBins != x.bins then .torn
  else if saturated then .saturated
  else .accepted (if x.dark then b.darkSum / x.bins else 0)

/-- A block that joins the accumulation list: accepted, not dark, not marked for discard (R70, R75, R76). -/
def Judgement.accumulates (j : Judgement) (x : Shot) : Bool :=
  match j with
  | .accepted _ => !x.dark && !x.discard
  | _ => false

/-- What the port does with a judged block: the entry goes; its samples go, or wait in the accumulation list (R70, R74). -/
def Port.judged (p : Port) (x : Shot) (b : OpenBlock) (j : Judgement) (bank : Option BankName) : Port :=
  match j.accumulates x, bank with
  | true, some n =>
    { p with
      intake := .noBlock, outstanding := p.without b.tag,
      accumulation := p.accumulation ++ [{ tag := x.tag, bins := x.bins, bank := n, summed := 0, counted := true }] }
  | _, _ => { p with intake := .noBlock, outstanding := p.without b.tag, fifo := p.dropOpen b }

/-- A trailer word (R70): the open block judged, a stray block ended, or a trailer with no block counted as stray. -/
def State.trailerArrives (s : State) (saturated : Bool) : State :=
  match s.port.intake with
  | .opened b =>
    match s.port.shot b.tag with
    | some x =>
      (s.withPort (s.port.judged x b (judgeBlock x b saturated) s.engine.bank)).deliver x.dark
        (judgeBlock x b saturated)
    | none => s.withPort { s.port with intake := .noBlock, fifo := s.port.dropOpen b }
  | .stray => s.withPort { s.port with intake := .noBlock }
  | .noBlock => s.withPort { s.port with stray := bump Config.countLimit s.port.stray }

/-! ### Lost shots -/

/-- What the port does with a lost shot: the entry goes, and its open block is torn away silently (R72). -/
def Port.lose (p : Port) (tag : Byte) : Port :=
  match p.intake with
  | .opened b =>
    if b.tag = tag then { p with intake := .noBlock, outstanding := p.without tag, fifo := p.dropOpen b }
    else { p with outstanding := p.without tag }
  | _ => { p with outstanding := p.without tag }

/-- The shot timer of an outstanding entry expires: the shot is lost (R72). -/
def State.shotExpires (s : State) (tag : Byte) : State :=
  match s.port.shot tag with
  | some x => (s.withPort (s.port.lose tag)).deliver x.dark .lost
  | none => s

/-! ### Accumulation -/

/-- The level added to the bank's sum of the bin (R74). -/
def State.addToBank (s : State) (n : BankName) (bin : Nat) (level : Half) : State :=
  s.setBank n { s.bank n with sums := (s.bank n).sums.add bin level }

/-- The accumulation list after one sample of its head: an uncounted block leaves at its last sample, with no notice (R76). -/
def AccumBlock.advance (b : AccumBlock) : List AccumBlock :=
  if !b.counted && b.left == 1 then [] else [{ b with summed := b.summed + 1 }]

/-- One sample of the head block is added to its bank and leaves the FIFO; the engine is told of the departure (R74). -/
def State.sumSample (s : State) : State :=
  match s.port.accumulation, s.port.fifo with
  | head :: rest, level :: fifo =>
    if head.summed < head.bins then
      ((s.addToBank head.bank head.summed level).withPort
        { s.port with accumulation := head.advance ++ rest, fifo := fifo }).retest
    else s
  | _, _ => s

/-- The head block's last sample has been added: it leaves the list, and the bank's accepted-shot count rises (R74). -/
def State.completeAccumulation (s : State) : State :=
  match s.port.accumulation with
  | head :: rest =>
    if head.left = 0 then
      ((s.setBank head.bank
        { s.bank head.bank with accepted := (s.bank head.bank).accepted + (if head.counted then 1 else 0) }).withPort
        { s.port with accumulation := rest }).retest
    else s
  | [] => s

/-- A claim of a bank ends the summing that still goes on into it: the samples leave the FIFO unsummed (R76, R81). -/
def Port.endSumming (p : Port) (n : BankName) : Port :=
  match p.accumulation with
  | head :: rest =>
    if head.bank = n then { p with accumulation := rest, fifo := p.fifo.drop head.left } else p
  | [] => p

/-! ### Thermal gate -/

/-- A status word taken by the thermal gate, with hysteresis; outside -40 to 125 it is discarded (R77). -/
def State.statusArrives (s : State) (t : Int) : State :=
  if t < -40 ∨ 125 < t then s
  else
    match s.port.gate with
    | .cool =>
      if s.port.hotLimit ≤ t then ((s.withPort { s.port with gate := .hot }).raise .thermal).retest else s
    | .hot => if t ≤ s.port.coolLimit then (s.withPort { s.port with gate := .cool }).resumeFiring else s

end Sys2Proof.Machine
end

