-- ==== Sys2Proof/Machine/Window.lean ====
section
/-! DEFINITION. The week clock and the quiet window: second events and matches (R19, R27), the
window state with its close grace (R28 to R33), the reference monitor (R20) and the clock's commands but for CLOCK_STEP
(R22, R23, R26, R28). -/

namespace Sys2Proof.Machine

/-! ### Time of week -/

/-- Seconds since day 0 00:00:00 (R19). -/
def TimeOfWeek.seconds (t : TimeOfWeek) : Nat :=
  ((t.day.val * 24 + t.hour.val) * 60 + t.minute.val) * 60 + t.second.val

/-- The time of week of a number of seconds, counted round the week (R24). -/
def TimeOfWeek.ofSeconds (n : Nat) : TimeOfWeek :=
  { day := Fin.ofNat 7 (n / 86400), hour := Fin.ofNat 24 (n / 3600), minute := Fin.ofNat 60 (n / 60),
    second := Fin.ofNat 60 n }

/-- The time one second later: day 6 returns to day 0 (R19). -/
def TimeOfWeek.next (t : TimeOfWeek) : TimeOfWeek :=
  .ofSeconds (t.seconds + 1)

def State.setTime (s : State) (t : TimeOfWeek) : State :=
  s.withWindow { s.window with time := t }

/-! ### Window edges -/

/-- A WINDOW_EDGE record put, and WINDOW_EDGE raised, stored or not (R33). -/
def State.putWindowEdge (s : State) (edge : Edge) (cause : EdgeCause) : State :=
  (s.putEdge (.windowEdge edge cause s.window.time s.window.integrity)).raise .windowEdge

/-- The window becomes CLOSED, with the recorded close cause (R32, R33). -/
def State.enterClosed (s : State) : State :=
  (s.withWindow { s.window with state := .closed, grace := .stopped }).putWindowEdge .closed
    (s.window.closeCause.getD .matched)

/-- The window becomes OPEN (R29); nothing when it is OPEN. The edge record is put from CLOSED only. -/
def State.openWindow (s : State) (cause : EdgeCause) : State :=
  match s.window.state with
  | .opened => s
  | .closed =>
    (((s.withWindow { s.window with state := .opened, grace := .stopped }).putWindowEdge .opened cause).startCycle).choose
  | .closing => ((s.withWindow { s.window with state := .opened, grace := .stopped }).startCycle).choose

/-- The close grace timer expires (R31): a cut is asked for, or the window becomes CLOSED. -/
def State.graceEnds (s : State) : State :=
  if s.sweepInFlight then (s.withWindow { s.window with grace := .expired }).cut
  else s.enterClosed

/-- The window becomes CLOSING with a sweep in flight: the grace timer starts, and a grace of 0 expires at once (R31). -/
def State.enterClosing (s : State) : State :=
  let started := s.withWindow { s.window with state := .closing, grace := .running s.window.graceSetting }
  if s.window.graceSetting = 0 then started.graceEnds else started

/-- The window's own part of leaving OPEN: CLOSED at once, or CLOSING while a sweep is in flight (R30). -/
def State.shutWindow (s : State) : State :=
  if s.sweepInFlight then s.enterClosing else s.enterClosed

/-- The cycle's CYCLE_END and the window's CLOSED edge record, which may follow one event in either order (R13, R30; log 7). -/
def State.inFreeOrder (s : State) (cycleFirst windowFirst : State) : State :=
  (if Config.cycleEndFirst s.freeCount then cycleFirst else windowFirst).nextFree

/-- An OPEN window leaves OPEN (R30); nothing when it is not OPEN. -/
def State.leaveOpen (s : State) (cause : EdgeCause) : State :=
  if s.window.state == .opened then
    let recorded := s.withWindow { s.window with closeCause := some cause }
    (recorded.inFreeOrder recorded.closeCycle.shutWindow recorded.shutWindow.closeCycle).choose
  else s

/-- The end of the sweep in flight makes a CLOSING window CLOSED (R32). -/
def State.sweepEnded (s : State) : State :=
  if s.window.state == .closing then s.enterClosed else s

/-! ### Matches -/

/-- The open match: hour and minute of the open time on a marked day (R27). -/
def Window.opens (w : Window) : Bool :=
  w.time.hour == w.schedule.openHour && w.time.minute == w.schedule.openMinute &&
    w.schedule.dayMask.getLsbD w.time.day.val

/-- The close match: hour and minute of the close time, on any day (R27). -/
def Window.closes (w : Window) : Bool :=
  w.time.hour == w.schedule.closeHour && w.time.minute == w.schedule.closeMinute

/-- The matches of a minute boundary, while the integrity is VALID and the mode is SCHEDULE (R27). -/
def State.evaluateMatches (s : State) (cause : EdgeCause) : State :=
  if s.window.integrity == .valid && s.window.mode == .schedule then
    if s.window.opens then s.openWindow cause else if s.window.closes then s.leaveOpen cause else s
  else s

/-- A second event (R19): the time advances by one second, and a new second of 0 is a minute boundary. -/
def State.secondPasses (s : State) : State :=
  let s' := s.withWindow { s.window with time := s.window.time.next, divider := 0 }
  if s'.window.time.second = 0 then s'.evaluateMatches .matched else s'

/-- The second event occurs while the reference is PRESENT (R19, R20). -/
def State.secondEvent (s : State) : State :=
  match s.window.reference with
  | .present => s.secondPasses
  | .lost => s

/-- One REFCLK edge (R19): counted while the reference is PRESENT; the 32768th is a second event. -/
def State.refclkEdge (s : State) : State :=
  match s.window.reference with
  | .present =>
    if s.window.divider + 1 < Config.edgesPerSecond then
      s.withWindow { s.window with divider := s.window.divider + 1 }
    else s.secondPasses
  | .lost => s

/-! ### Reference monitor -/

/-- The reference becomes LOST (R20). -/
def State.referenceLost (s : State) : State :=
  match s.window.reference with
  | .lost => s
  | .present =>
    let s' := (s.withWindow { s.window with reference := .lost, integrity := .invalid }).raise .clockLost
    if s.window.mode == .schedule then s'.leaveOpen .clockLost else s'

/-- The reference becomes PRESENT again: divider and time go on from where they stopped, the integrity stays INVALID (R20). -/
def State.referencePresent (s : State) : State :=
  s.withWindow { s.window with reference := .present }

/-- The grace timer expires, which it can only while it runs in CLOSING (R31). -/
def State.graceExpires (s : State) : State :=
  match s.window.state, s.window.grace with
  | .closing, .running _ => s.graceEnds
  | _, _ => s

/-! ### Commands -/

/-- CLOCK_SET (R22). -/
def State.clockSet (s : State) (day hour minute second : Byte) : Done :=
  match timeOf day hour minute second with
  | none => s.refuse .range
  | some t =>
    match s.window.reference with
    | .lost => s.refuse .busy
    | .present => (s.withWindow { s.window with time := t, divider := 0, integrity := .valid }).ok

/-- What CLOCK_READ says of the close (R23): the whole seconds remaining are a free value, at most the length (log 6). -/
def State.graceReport (s : State) : GraceReport :=
  match s.window.state with
  | .closing =>
    match s.window.grace with
    | .running length => .remaining s.window.closeCause (min (Config.graceRemaining s.freeCount) length)
    | _ => .expired s.window.closeCause
  | _ => .notClosing

/-- CLOCK_READ (R23). -/
def State.clockRead (s : State) : Done :=
  { state := s.nextFree, status := .ok,
    results := .clock
      { time := s.window.time, integrity := s.window.integrity, reference := s.window.reference,
        schedule := s.window.schedule, mode := s.window.mode, state := s.window.state, grace := s.graceReport } }

/-- WINDOW_SET (R26). -/
def State.windowSet (s : State) (mask openHour openMinute closeHour closeMinute : Byte) : Done :=
  match scheduleOf mask openHour openMinute closeHour closeMinute with
  | some x => (s.withWindow { s.window with schedule := x }).ok
  | none => s.refuse .range

/-- The effects of a window mode (R28). -/
def State.enterMode (s : State) : WindowMode → State
  | .schedule => s.withWindow { s.window with mode := .schedule }
  | .forcedOpen => (s.withWindow { s.window with mode := .forcedOpen }).openWindow .forced
  | .forcedClosed => (s.withWindow { s.window with mode := .forcedClosed }).leaveOpen .forced

/-- WINDOW_MODE (R28). -/
def State.setWindowMode (s : State) (mode : Byte) : Done :=
  match windowModeOf mode with
  | some m => (s.enterMode m).ok
  | none => s.refuse .range

end Sys2Proof.Machine
end

