-- ==== Sys2Proof/Machine/Sweep.lean ====
section
/-! DEFINITION. The life of a sweep at the engine: its start (R36 to R39), its completion (R51), the closing actions of a
decided outcome (R55, R56), and on-demand tests with pre-emption and conversion (R57 to R60). -/

namespace Sys2Proof.Machine

/-! ### Start -/

/-- What a source gives a sweep (R37): its span, its reason, the class where the source carries one, how it is counted. -/
structure Source where
  span : Span
  reason : SweepReason
  cls : Option PulseClass
  countedAs : CountedAs
  deriving DecidableEq, Repr

/-- The source of a re-check entry (R37). -/
def RecheckEntry.source (e : RecheckEntry) : Source :=
  match e.reason with
  | .confirm => { span := e.span, reason := .confirm, cls := none, countedAs := .extra }
  | .escalate c => { span := e.span, reason := .escalate, cls := some c, countedAs := .extra }
  | .retry c => { span := e.span, reason := .retry, cls := some c, countedAs := .extra }

/-- The plan's span taken as a source (R7, R37). -/
def State.takePlanSource (s : State) : Option (State × Source) :=
  match s.takePlanSpan with
  | some (s', sp) => some (s', { span := sp, reason := .plan, cls := none, countedAs := .plan })
  | none => none

/-- The re-check head taken as a source, or the plan's span when no re-check is offered (R38, R39). -/
def State.takeQueueSource (s : State) : Option (State × Source) :=
  match s.conditions.recheck with
  | e :: rest =>
    if s.window.state == .opened then some (s.setRecheck rest, e.source)
    else if s.planOffers then s.takePlanSource else none
  | [] => if s.planOffers then s.takePlanSource else none

/-- The first source that exists is taken (R38, R39 action 1). -/
def State.takeSource (s : State) : Option (State × Source) :=
  match s.engine.onDemand with
  | some sp =>
    some (s.withEngine { s.engine with onDemand := none },
      { span := sp, reason := .onDemand, cls := none, countedAs := .extra })
  | none => s.takeQueueSource

/-- The retain field of a new sweep (R37): the retain slot holds the span, and no bank holds a context with retain yes. -/
def State.retainFor (s : State) (sp : Span) : Bool :=
  s.banks.retainSlot == some sp && !s.banks.a.retains && !s.banks.b.retains

/-- The context built at the start of a sweep (R8, R36, R37). -/
def State.buildContext (s : State) (x : Source) (n : BankName) : SweepContext :=
  { span := x.span, reason := x.reason, countedAs := x.countedAs,
    cls := x.cls.getD (s.group (s.entry x.span).group).live.baseClass, port := (s.entry x.span).port,
    settings := (s.group (s.entry x.span).group).live, generation := (s.slot x.span).generation,
    cycle := s.plan.active.map (·.number), retain := s.retainFor x.span, accepted := 0, rejected := 0, lost := 0,
    consecutiveLost := 0, bank := n }

/-- Actions 2 to 5 of R39, the source taken: the context, the claim (R81), the reservation, SELECTING (R43). -/
def State.beginSweep (s : State) (x : Source) (n : BankName) : State :=
  let c := s.buildContext x n
  let claimed := (s.withPort (s.port.endSumming n)).claimBank n c
  let counted := (claimed.countStarted x.countedAs).reserve
  (counted.withEngine { counted.engine with state := .selecting, bank := some n, outcome := none }).select c

/-- SWEEP_START (R39): the whole start when a source exists and both conditions hold, else the choice of R38. -/
def State.sweepStart (s : State) : State :=
  if s.sweepInFlight then s
  else
    match s.reports.grants, s.freeBankName with
    | true, some n =>
      match s.takeSource with
      | some (s', x) => s'.beginSweep x n
      | none => s.choose
    | _, _ => s.choose

/-! ### Completion -/

/-- Both parts of R51's condition: accepted tally and completed accumulations have reached the shot count. -/
def State.completes (s : State) (c : SweepContext) : Bool :=
  s.engine.state == .firing && c.full && decide (c.settings.shotCount ≤ (s.bank c.bank).accepted)

/-- The engine holds no sweep. -/
def State.dropSweep (s : State) : State :=
  s.withEngine { s.engine with state := .idle, bank := none, outcome := none }

/-- SWEEP_COMPLETE (R51): the bank FULL and ready, the engine IDLE, the end of the sweep in flight, the choice. -/
def State.sweepComplete (s : State) : State :=
  match s.engine.bank, s.context with
  | some n, some c =>
    if s.completes c then ((s.fillBank n).dropSweep.sweepEnded).choose else s
  | _, _ => s

/-! ### Closing actions -/

/-- The re-check reason of a give-back (R56): CONFIRM, or ESCALATE with the class used. -/
def SweepContext.giveBackReason (c : SweepContext) : Option RecheckReason :=
  match c.reason with
  | .confirm => some .confirm
  | .escalate => some (.escalate c.cls)
  | _ => none

/-- The return to the re-check queue (R56): not for PREEMPTED, which R59 has returned. -/
def State.giveBack (s : State) (c : SweepContext) (o : EngineOutcome) : State :=
  match c.giveBackReason with
  | some r => if o = .preempted then s else s.requestTail c.span r
  | none => s

/-- The SPAN_RESULT of an outcome the engine decides (R55). -/
def State.engineResult (s : State) (c : SweepContext) (o : EngineOutcome) : SpanResult :=
  { span := c.span, reason := .sweep c.reason, outcome := .engine o, cls := c.cls, accepted := c.accepted,
    rejected := c.rejected, lost := c.lost, measuredEnd := none, findingCount := 0, more := false, retained := false,
    before := (s.condition c.span).state, after := (s.condition c.span).state, cause := none, cycle := c.cycle,
    endTime := s.window.time }

/-- The end told to the sweep plan (R12) and to the window clock (R32), whose records may stand in either order (R13). -/
def State.tellEnd (s : State) (c : SweepContext) : State :=
  s.inFreeOrder (s.countEnded c.cycle c.countedAs).sweepEnded (s.sweepEnded.countEnded c.cycle c.countedAs)

/-- The closing actions of R55 for a sweep of outcome `o` in bank `n`. -/
def State.closeSweep (s : State) (n : BankName) (c : SweepContext) (o : EngineOutcome) : State :=
  let returned := (s.giveBack c o).freeBank n
  ((returned.putWork [.spanResult (returned.engineResult c o)]).dropSweep.tellEnd c).choose

/-- CLOSING_ACTIONS (R55), taken when the outcome is decided and no shot is outstanding (R53, R54). -/
def State.closingActions (s : State) : State :=
  match s.engine.state, s.engine.bank, s.engine.outcome, s.context with
  | .draining, some n, some o, some c => if s.port.outstanding.isEmpty then s.closeSweep n c o else s
  | _, _, _, _ => s

/-! ### On-demand tests -/

/-- The span enters the on-demand slot, and the engine chooses when it holds no sweep (R58). -/
def State.fillSlot (s : State) (sp : Span) : State :=
  (s.withEngine { s.engine with onDemand := some sp }).choose

/-- Pre-emption (R59): RETRY asked at the head at the class used, then outcome PREEMPTED. -/
def State.preempt (s : State) (c : SweepContext) : State :=
  (s.requestHead c.span c.cls).decideOutcome .preempted

/-- Conversion (R60): reason ON_DEMAND, and retain when TEST_NOW carried it. -/
def State.convert (s : State) (c : SweepContext) (retain : Bool) : State :=
  s.setContext { c with reason := .onDemand, retain := c.retain || retain }

/-- An accepted TEST_NOW by the engine's state and the sweep it holds (R58). -/
def State.serveTest (s : State) (sp : Span) (retain : Bool) : State :=
  match s.engine.state, s.context with
  | .idle, _ | .waiting, _ | .draining, _ => s.fillSlot sp
  | _, some c =>
    if c.span = sp then s.convert c retain
    else if s.stoppable c then (s.fillSlot sp).preempt c
    else s.fillSlot sp
  | _, none => s.fillSlot sp

/-- With retain yes the span is first placed in the retain slot (R57). -/
def State.placeRetain (s : State) (sp : Span) (retain : Bool) : State :=
  if retain then s.withBanks { s.banks with retainSlot := some sp } else s

/-- TEST_NOW (R57, R58). -/
def State.testNow (s : State) (span retain : Byte) : Done :=
  match spanOf span, yesNo retain with
  | some sp, some r =>
    if !(s.entry sp).enabled then s.refuse .notFound
    else if s.engine.onDemand.isSome then s.refuse .busy
    else if r && (s.heldOrExporting || s.banks.retainSlot.isSome) then s.refuse .busy
    else ((s.placeRetain sp r).serveTest sp r).ok
  | _, _ => s.refuse .range

end Sys2Proof.Machine
end

