-- ==== Sys2Proof/Machine/Replay.lean ====
section
/-! DEFINITION. CLOCK_STEP (R24) with its replay of matches (R25). A sweep that a replayed match ends with no shot
outstanding has its closing actions at the boundary that ended it (R53, R55; log 1). -/

namespace Sys2Proof.Machine

/-- The closing actions that follow at once on an outcome decided since the state `s` (R53, R25): an outcome decided before
it waits for its own row (log 1), and so does one decided with a shot outstanding (R54). -/
def State.closeDecided (s now : State) : State :=
  if s.engine.state == .draining then now else now.closingActions

/-- One replayed minute boundary, at the time `t`: its match with its full effect, the end of a sweep that it cut with no
shot outstanding among it (R25). The time of week stands at the boundary meanwhile, so that the SPAN_RESULT of such a sweep
has the boundary's time as its end time, where R24, R25 and R55 leave open whether it has that or the time after the step
(DESIGN CHOICE, log 27). -/
def State.replayBoundary (s : State) (t : TimeOfWeek) : State :=
  s.closeDecided ((s.setTime t).evaluateMatches .stepped)

/-- The minute boundaries of a forward step, in time order, each with its full effect (R25): `n` boundaries from minute
`m` of the week on. -/
def State.replay (s : State) : Nat → Nat → State
  | 0, _ => s
  | n + 1, m => (s.replayBoundary (.ofSeconds (m * 60))).replay n (m + 1)

/-- A forward step of `k` seconds (R24, R25): the boundaries after the old time up to the new one, then the new time. -/
def State.stepForward (s : State) (k : Nat) : State :=
  let old := s.window.time.seconds
  (s.replay ((old + k) / 60 - old / 60) (old / 60 + 1)).setTime (.ofSeconds (old + k))

/-- A backward step of `k` seconds, round the week; no match is evaluated (R24). -/
def State.stepBack (s : State) (k : Nat) : State :=
  s.setTime (.ofSeconds (s.window.time.seconds + Config.weekSeconds - k))

/-- CLOCK_STEP (R24, R25). -/
def State.clockStep (s : State) (seconds : Half) : Done :=
  if seconds.toInt < -3600 ∨ 3600 < seconds.toInt then s.refuse .range
  else if s.window.integrity == .invalid then s.refuse .clockInvalid
  else if 0 ≤ seconds.toInt then (s.stepForward seconds.toInt.toNat).ok
  else (s.stepBack (-seconds.toInt).toNat).ok

end Sys2Proof.Machine
end

