-- ==== Sys2Proof/Machine/Device.lean ====
section
/-! DEFINITION. The commands of the report queue and the notices (R157, R163, R164), the device settings (R173), the status
(R174), and the resets as they act on each block (R14, R35, R63, R79, R94, R111, R133, R150, R160, R165, R175, R176). -/

namespace Sys2Proof.Machine

/-! ### Reports and notices -/

/-- DRAIN (R157). -/
def State.drain (s : State) (n : Byte) : Done :=
  if !within 1 8 n.toNat then s.refuse .range
  else
    match s.reports.delivery with
    | .stream => s.refuse .busy
    | .held =>
      { state := s.takeRecords n.toNat, status := .ok,
        results := .drained (s.reports.records.take n.toNat) (s.takeRecords n.toNat).reports.occupancy }

/-- NOTICE_READ (R163). -/
def State.noticeRead (s : State) : Done :=
  s.okWith (.notices s.notices.pending s.notices.mask)

/-- NOTICE_ACK (R163): the pending set as it stands after it is returned. -/
def State.noticeAck (s : State) (kinds : List Byte) : Done :=
  match kindsOf kinds with
  | some ks =>
    if within 1 13 ks.length then
      (s.withNotices { s.notices with pending := s.acknowledged ks }).okWith (.noticeSet (s.acknowledged ks))
    else s.refuse .range
  | none => s.refuse .range

/-- NOTICE_MASK (R164): the mask as it stands after it is returned. -/
def State.noticeMask (s : State) (pairs : List (Byte × Byte)) : Done :=
  match maskActionsOf pairs with
  | some ps =>
    if within 1 13 ps.length then
      (s.withNotices { s.notices with mask := maskActions s.notices.mask ps }).okWith
        (.noticeSet (maskActions s.notices.mask ps))
    else s.refuse .range
  | none => s.refuse .range

/-! ### Settings and status -/

/-- The eight settings as their owners hold them (section 10.4). -/
def State.settings (s : State) : Settings :=
  { selectorTimeout := s.engine.selectorTimeout, hotLimit := s.port.hotLimit, coolLimit := s.port.coolLimit,
    holdLimit := s.banks.holdLimit, closeGrace := s.window.graceSetting, delivery := s.reports.delivery,
    pauseMark := s.reports.pauseMark, resumeMark := s.reports.resumeMark }

/-- The settings written to their owners (section 10.4). -/
def State.storeSettings (s : State) (x : Settings) : State :=
  ((((s.withEngine { s.engine with selectorTimeout := x.selectorTimeout }).withPort
    { s.port with hotLimit := x.hotLimit, coolLimit := x.coolLimit }).withBanks
    { s.banks with holdLimit := x.holdLimit }).withWindow { s.window with graceSetting := x.closeGrace }).withReports
    { s.reports with delivery := x.delivery, pauseMark := x.pauseMark, resumeMark := x.resumeMark }

/-- The settings written with their effects (R158, R173): a change of a mark is applied to back-pressure at once. -/
def State.writeSettings (s : State) (x : Settings) : State :=
  if x.pauseMark = s.reports.pauseMark ∧ x.resumeMark = s.reports.resumeMark then s.storeSettings x
  else (s.storeSettings x).applyMarks

/-- SETTINGS_WRITE (R173). -/
def State.settingsWrite (s : State) (pairs : List (Byte × Half)) : Done :=
  if within 1 8 pairs.length then
    match settingFields s.settings pairs with
    | some x => if x.related then (s.writeSettings x).ok else s.refuse .range
    | none => s.refuse .range
  else s.refuse .range

/-- SETTINGS_READ (R173). -/
def State.settingsRead (s : State) : Done :=
  s.okWith (.settings s.settings)

/-- What STATUS_READ tells of one bank (R174). -/
def Bank.report (b : Bank) : BankReport :=
  { state := b.state, reanalysis := b.reanalysis, releasePending := b.releasePending }

/-- The span of the sweep in flight (R174). -/
def State.sweepSpan (s : State) : Option Span :=
  if s.sweepInFlight then s.context.map (·.span) else none

/-- STATUS_READ's report (R174). -/
def State.statusReport (s : State) : StatusReport :=
  { engine := s.engine.state, sweepSpan := s.sweepSpan, window := s.window.state, mode := s.window.mode,
    integrity := s.window.integrity, bankA := s.banks.a.report, bankB := s.banks.b.report,
    intakeOccupancy := s.port.fifo.length, reportOccupancy := s.reports.occupancy, reserved := s.reports.reserved,
    backPressure := s.reports.backPressure, recheckLength := s.conditions.recheck.length, onDemand := s.engine.onDemand,
    retainSlot := s.banks.retainSlot, selector := s.engine.selector, gate := s.port.gate,
    pending := s.notices.pending, lastReset := s.link.lastReset, stray := s.port.stray, omitted := s.reports.omitted,
    discarded := s.link.discarded }

/-- STATUS_READ (R174). -/
def State.statusRead (s : State) : Done :=
  s.okWith (.status s.statusReport)

/-! ### Resets, block by block -/

/-- R14, R9: every cycle record discarded, the last used number kept. -/
def Plan.restarted (p : Plan) : Plan :=
  { p with active := none, ending := [] }

/-- R35, FULL_RESET: time, divider, integrity and reference kept. -/
def Window.fullyReset (w : Window) : Window :=
  { Window.initial with time := w.time, divider := w.divider, integrity := w.integrity, reference := w.reference }

/-- R63, RESTART: the selector timeout setting kept. -/
def Engine.restarted (e : Engine) : Engine :=
  { Engine.initial with selectorTimeout := e.selectorTimeout }

/-- R79, RESTART: gate, limits and stray count kept. -/
def Port.restarted (p : Port) : Port :=
  { Port.initial with gate := p.gate, hotLimit := p.hotLimit, coolLimit := p.coolLimit, stray := p.stray }

/-- R94: every bank FREE; the sums are not cleared. -/
def Bank.reset (b : Bank) : Bank :=
  { Bank.initial with sums := b.sums }

/-- R94, with the hold limit it leaves. -/
def Banks.reset (b : Banks) (holdLimit : Nat) : Banks :=
  { a := b.a.reset, b := b.b.reset, retainSlot := none, ready := [], holdLimit := holdLimit }

/-- R133, RESTART: the record discarded, the profiles kept. -/
def Analyser.restarted (a : Analyser) : Analyser :=
  { a with record := none }

/-- R150, RESTART: the entries kept, the queue emptied. -/
def Conditions.restarted (c : Conditions) : Conditions :=
  { c with recheck := [] }

/-- R160, RESTART: mode, marks and omitted count kept. -/
def Reports.restarted (r : Reports) : Reports :=
  { r with records := [], reserved := 0, backPressure := false, sequence := 0 }

/-- The pending set of a reset (R165): RESTARTED, and each level kind whose condition holds. -/
def State.resetPending (s : State) : BitVec 13 :=
  kindBit NoticeKind.restarted.number ||| s.levelsHolding

/-- The notices after a reset, with the mask it leaves (R165). -/
def State.resetNotices (s : State) (mask : BitVec 13) : State :=
  s.withNotices { pending := s.resetPending, mask := mask }

/-- The link at power-on and the RESET input (R176): a frame in transmission is completed. -/
def Link.cleared (l : Link) (cause : ResetCause) : Link :=
  { Link.initial with transmitter := l.transmitter, lastReset := cause }

/-- The link at the effect of RESTART (R175). -/
def Link.restarted (l : Link) : Link :=
  { l with dispatcher := .ready, lastReset := .restart }

/-- The link at the effect of FULL_RESET (R175). -/
def Link.fullyReset (l : Link) : Link :=
  { l with dispatcher := .ready, lastReset := .fullReset, discarded := 0 }

/-- Power-on and the RESET input (R176), with the cause they record. The model's own fields and the queue stay. -/
def State.hardReset (s : State) (cause : ResetCause) : State :=
  State.resetNotices
    { s with
      plan := .initial, window := .initial, engine := .initial, port := .initial,
      banks := s.banks.reset Banks.initial.holdLimit, baselines := .initial, analyser := .initial,
      conditions := .initial, reports := .initial, link := s.link.cleared cause }
    defaultMask

/-- The effect of FULL_RESET (R175). -/
def State.fullReset (s : State) : State :=
  State.resetNotices
    { s with
      plan := .initial, window := s.window.fullyReset, engine := .initial, port := .initial,
      banks := s.banks.reset Banks.initial.holdLimit, baselines := .initial, analyser := .initial,
      conditions := .initial, reports := .initial, link := s.link.fullyReset }
    defaultMask

/-- Every block at the effect of RESTART (R175), before the window and the plan act on the state it leaves. -/
def State.restartBlocks (s : State) : State :=
  State.resetNotices
    { s with
      plan := s.plan.restarted, engine := s.engine.restarted, port := s.port.restarted,
      banks := s.banks.reset s.banks.holdLimit, analyser := s.analyser.restarted,
      conditions := s.conditions.restarted, reports := s.reports.restarted, link := s.link.restarted }
    s.notices.mask

/-- The effect of RESTART: a CLOSING window whose grace has expired becomes CLOSED with its edge record (R32), an OPEN one
starts a cycle (R10, R14), and the engine chooses (R63). -/
def State.restart (s : State) : State :=
  let r := s.restartBlocks
  match s.window.state with
  | .opened => r.startCycle.choose
  | .closing => if s.window.grace = .expired then r.enterClosed.choose else r.choose
  | .closed => r.choose

/-- The effect of a reset command (R175). -/
def State.resetEffect (s : State) : ResetCommand → State
  | .restart => s.restart
  | .fullReset => s.fullReset

end Sys2Proof.Machine
end

