-- ==== Sys2Proof/Machine/Formats.lean ====
section
/-! DEFINITION. The bytes of the frames the part sends and checks: the CRC (R166), the envelope (section 11.1), the codes
and conventions of R177, the results of R178, the records of R179 and the EXPORT payload of R180. -/

namespace Sys2Proof.Machine

/-! ### CRC and envelope -/

/-- One bit of the CRC (R166): polynomial 0x1021, most significant bit first. -/
def crcBit (crc : Half) : Half :=
  if crc.msb then (crc <<< 1) ^^^ 0x1021 else crc <<< 1

/-- One byte of the CRC, most significant bit first (R166). -/
def crcByte (crc : Half) (b : Byte) : Half :=
  crcBit (crcBit (crcBit (crcBit (crcBit (crcBit (crcBit (crcBit (crc ^^^ (b.setWidth 16 <<< 8)))))))))

/-- The CRC of some bytes after those already taken. -/
def crcFrom (crc : Half) : List Byte → Half
  | [] => crc
  | b :: rest => crcFrom (crcByte crc b) rest

/-- The CRC of a frame: over kind, tag, length and payload, from the initial value 0xFFFF (R166). -/
def frameCrc (kind tag : Byte) (length : Half) (payload : List Byte) : Half :=
  crcFrom 0xFFFF (kind :: tag :: (halfBytes length ++ payload))

/-- A frame in its envelope (R166, section 11.1). -/
def envelope (kind tag : Byte) (payload : List Byte) : List Byte :=
  let length : Half := BitVec.ofNat 16 payload.length
  [0xC3, 0x3C, kind, tag] ++ halfBytes length ++ payload ++ halfBytes (frameCrc kind tag length payload)

/-! ### Fields (R177) -/

def byteOf (n : Nat) : Byte := BitVec.ofNat 8 n

def twoBytes (n : Nat) : List Byte := halfBytes (BitVec.ofNat 16 n)

def fourBytes (n : Nat) : List Byte := wordBytes (BitVec.ofNat 32 n)

def yesNoByte (x : Bool) : Byte := if x then 1 else 0

/-- A span, or 0xFF for none (R177). -/
def optSpanByte : Option Span → Byte
  | some sp => byteOf sp.val
  | none => 0xFF

/-- An optional number, or the value that stands for its absence (R177). -/
def orAbsent (absent : Nat) : Option Nat → Nat
  | some n => n
  | none => absent

def timeBytes (t : TimeOfWeek) : List Byte :=
  [byteOf t.day, byteOf t.hour, byteOf t.minute, byteOf t.second]

def setBytes (x : BitVec 13) : List Byte := halfBytes (x.setWidth 16)

def BankName.code : BankName → Byte
  | .a => 0 | .b => 1

def SweepReason.code : SweepReason → Byte
  | .plan => 0 | .confirm => 1 | .escalate => 2 | .retry => 3 | .onDemand => 4

def RecordReason.code : RecordReason → Byte
  | .sweep r => r.code
  | .reanalysis => 5

def AnalysisOutcome.code : AnalysisOutcome → Byte
  | .analysed => 0 | .endOnly => 1 | .escalated => 2

def EngineOutcome.code : EngineOutcome → Byte
  | .lit => 3 | .noPort => 4 | .mute => 5 | .hot => 6 | .cut => 7 | .preempted => 8

def ResultOutcome.code : ResultOutcome → Byte
  | .analysis x => x.code
  | .engine x => x.code

def Condition.code : Condition → Byte
  | .unknown => 0 | .clear => 1 | .suspect => 2 | .faulted => 3

def Cause.code : Cause → Byte
  | .firstClear => 0 | .suspected => 1 | .confirmed => 2 | .transient => 3 | .unstable => 4 | .changed => 5
  | .restored => 6

def FindingKind.code : FindingKind → Byte
  | .fibreBreak => 0 | .bend => 1 | .grown => 2 | .unreached => 3

def FindingStatus.code : FindingStatus → Byte
  | .new => 0 | .confirmed => 1

def EndKind.code : EndKind → Byte
  | .splice => 0 | .connector => 1 | .fibreEnd => 2

def CycleReason.code : CycleReason → Byte
  | .wrap => 0 | .close => 1

def Edge.code : Edge → Byte
  | .opened => 0 | .closed => 1

def EdgeCause.code : EdgeCause → Byte
  | .matched => 0 | .forced => 1 | .clockLost => 2 | .stepped => 3

def Integrity.code : Integrity → Byte
  | .invalid => 0 | .valid => 1

def WindowMode.code : WindowMode → Byte
  | .schedule => 0 | .forcedOpen => 1 | .forcedClosed => 2

def Delivery.code : Delivery → Nat
  | .stream => 0 | .held => 1

def Status.code : Status → Byte
  | .ok => 0 | .accepted => 1 | .busy => 2 | .range => 3 | .noSpace => 4 | .conflict => 5 | .notFound => 6
  | .unknownCommand => 7 | .malformed => 8 | .clockInvalid => 9

/-- Enumerated states that the table of R177 does not list are coded in the order the manual first lists them (log 14). -/
def WindowState.code : WindowState → Byte
  | .closed => 0 | .opened => 1 | .closing => 2

def Reference.code : Reference → Byte
  | .present => 0 | .lost => 1

def EngineState.code : EngineState → Byte
  | .idle => 0 | .waiting => 1 | .selecting => 2 | .settling => 3 | .darkCheck => 4 | .firing => 5 | .hotHold => 6
  | .draining => 7

def BankState.code : BankState → Byte
  | .free => 0 | .filling => 1 | .full => 2 | .analysing => 3 | .held => 4 | .exporting => 5

def Reanalysis.code : Reanalysis → Byte
  | .idle => 0 | .waiting _ => 1 | .running => 2

def Gate.code : Gate → Byte
  | .cool => 0 | .hot => 1

/-- The back-pressure state, in the order of chapter 9's table: set 0, clear 1 (R177; log 14). -/
def backPressureByte (x : Bool) : Byte := if x then 0 else 1

def ResetCause.code : ResetCause → Byte
  | .powerOn => 0 | .resetInput => 1 | .fullReset => 2 | .restart => 3

/-- The selector state in three bytes (R177). -/
def selectorBytes : Selector → List Byte
  | .unknown => [0, 0xFF, 0]
  | .moving p => [1, byteOf p.val, 0]
  | .atPort p settled => [2, byteOf p.val, yesNoByte settled]

/-! ### Records (R179) -/

def SpanResult.bytes (r : SpanResult) : List Byte :=
  [1, byteOf r.span.val, r.reason.code, r.outcome.code, byteOf r.cls.val] ++ fourBytes r.accepted ++
    [byteOf r.rejected] ++ twoBytes r.lost ++ twoBytes (orAbsent 0xFFFF r.measuredEnd) ++
    [byteOf r.findingCount, yesNoByte r.more, yesNoByte r.retained, r.before.code, r.after.code,
      (r.cause.map Cause.code).getD 0xFF] ++ twoBytes (orAbsent 0 r.cycle) ++ timeBytes r.endTime

def Record.bytes : Record → List Byte
  | .spanResult r => r.bytes
  | .finding sp i f =>
    [2, byteOf sp.val, byteOf i, f.kind.code] ++ twoBytes f.location ++ twoBytes f.excess ++
      [byteOf (orAbsent 0 f.zone), f.status.code]
  | .cycleEnd n start reason planSweeps extraSweeps notReached =>
    [3] ++ twoBytes n ++ [byteOf start.val, reason.code] ++ twoBytes planSweeps ++ twoBytes extraSweeps ++
      [byteOf notReached]
  | .windowEdge edge cause time integrity => [4, edge.code, cause.code] ++ timeBytes time ++ [integrity.code]

def recordsBytes (rs : List Record) : List Byte :=
  (rs.map Record.bytes).flatten

/-! ### Results (R178) -/

/-- The nine values of a group's set, four bytes each, in identifier order (R178). -/
def GroupSettings.bytes (g : GroupSettings) : List Byte :=
  fourBytes g.baseClass.val ++ fourBytes g.maxClass.val ++ fourBytes g.binCount ++ fourBytes g.binLength ++
    fourBytes g.shotCount ++ fourBytes g.settleTime ++ fourBytes g.rejectLimit ++ fourBytes g.litLevel ++
    fourBytes g.profile.val

/-- The fields of a profile, as PROFILE_WRITE lays them out from offset 2 (R178). -/
def Profile.bytes (p : Profile) : List Byte :=
  twoBytes p.floor ++ [byteOf p.persistence, byteOf p.stepGap] ++ twoBytes p.bend ++ twoBytes p.grown ++
    twoBytes p.breakDrop ++ [byteOf p.tolerance, byteOf p.blind, yesNoByte p.confirm, byteOf p.clearCount]

def Zone.bytes (z : Zone) : List Byte :=
  twoBytes z.endBin ++ twoBytes z.startLevel ++ twoBytes z.endLevel ++ [z.kind.code]

/-- A baseline record, as BASELINE_LOAD lays it out from offset 2 (R178). -/
def Baseline.bytes (b : Baseline) : List Byte :=
  [byteOf b.cls.val, byteOf b.binLength] ++ twoBytes b.launch ++ twoBytes b.endBin ++ [byteOf b.zones.length] ++
    (b.zones.map Zone.bytes).flatten

/-- The close cause and the grace remaining of CLOCK_READ (R177). -/
def GraceReport.bytes : GraceReport → List Byte
  | .notClosing => 0xFF :: twoBytes 0xFFFF
  | .remaining cause n => (cause.map EdgeCause.code).getD 0xFF :: twoBytes n
  | .expired cause => (cause.map EdgeCause.code).getD 0xFF :: twoBytes 0xFFFE

def Schedule.bytes (x : Schedule) : List Byte :=
  [x.dayMask.setWidth 8, byteOf x.openHour, byteOf x.openMinute, byteOf x.closeHour, byteOf x.closeMinute]

def ClockReport.bytes (r : ClockReport) : List Byte :=
  timeBytes r.time ++ [r.integrity.code, r.reference.code] ++ r.schedule.bytes ++ [r.mode.code, r.state.code] ++
    r.grace.bytes

/-- The lead of CONDITION_READ: kind 0xFF with location and excess 0 when absent (R177). -/
def leadBytes : Option Lead → List Byte
  | some l => l.kind.code :: (twoBytes l.location ++ twoBytes l.excess)
  | none => 0xFF :: (twoBytes 0 ++ twoBytes 0)

def RecheckReason.code : RecheckReason → Byte
  | .confirm => 1 | .escalate _ => 2 | .retry _ => 3

def RecheckReason.classByte : RecheckReason → Byte
  | .confirm => 0xFF
  | .escalate c | .retry c => byteOf c.val

/-- The queue place of CONDITION_READ: position 0 with reason and class 0xFF when not queued (R177). -/
def placeBytes : Option (Nat × RecheckReason) → List Byte
  | some (n, r) => [byteOf n, r.code, r.classByte]
  | none => [0, 0xFF, 0xFF]

def ConditionEntry.bytes (e : ConditionEntry) : List Byte :=
  [e.state.code] ++ leadBytes e.lead ++
    [byteOf e.attempts, byteOf e.streak, (e.lastOutcome.map AnalysisOutcome.code).getD 0xFF] ++
    twoBytes (orAbsent 0xFFFF e.lastEnd) ++ twoBytes (orAbsent 0 e.lastCycle)

def signedBytes (x : Int) : List Byte := halfBytes (BitVec.ofInt 16 x)

/-- The eight settings, each in the two signed bytes of a SETTINGS_WRITE value (R178; log 14). -/
def Settings.bytes (x : Settings) : List Byte :=
  twoBytes x.selectorTimeout ++ signedBytes x.hotLimit ++ signedBytes x.coolLimit ++ twoBytes x.holdLimit ++
    twoBytes x.closeGrace ++ twoBytes x.delivery.code ++ twoBytes x.pauseMark ++ twoBytes x.resumeMark

def BankReport.bytes (b : BankReport) : List Byte :=
  [b.state.code, b.reanalysis.code, yesNoByte b.releasePending]

def StatusReport.bytes (r : StatusReport) : List Byte :=
  [r.engine.code, optSpanByte r.sweepSpan, r.window.code, r.mode.code, r.integrity.code] ++ r.bankA.bytes ++
    r.bankB.bytes ++ twoBytes r.intakeOccupancy ++
    [byteOf r.reportOccupancy, byteOf r.reserved, backPressureByte r.backPressure, byteOf r.recheckLength,
      optSpanByte r.onDemand, optSpanByte r.retainSlot] ++ selectorBytes r.selector ++ [r.gate.code] ++
    setBytes r.pending ++ [r.lastReset.code] ++ twoBytes r.stray ++ twoBytes r.omitted ++ twoBytes r.discarded

/-- The results of an answered command, from offset 2 (R178). -/
def Results.bytes : Results → List Byte
  | .nothing => []
  | .plan e cursor cycle =>
    [yesNoByte e.enabled, byteOf e.port.val, byteOf e.group.val, byteOf cursor.val] ++ twoBytes (orAbsent 0 cycle)
  | .group g => g.live.bytes ++ g.pending.bytes ++ [yesNoByte g.staged]
  | .clock r => r.bytes
  | .baseline slot poolFree =>
    [yesNoByte slot.record.isSome, slot.generation] ++ twoBytes poolFree ++ (slot.record.map Baseline.bytes).getD []
  | .profile p => p.bytes
  | .condition e place n => e.bytes ++ placeBytes place ++ [byteOf n]
  | .drained rs n => [byteOf rs.length, byteOf n] ++ recordsBytes rs
  | .notices pending mask => setBytes pending ++ setBytes mask
  | .noticeSet x => setBytes x
  | .settings x => x.bytes
  | .status r => r.bytes

/-! ### Frames -/

/-- A RESPONSE payload: status, command code, results (R178). -/
def Response.payload (r : Response) : List Byte :=
  [r.status.code, r.code] ++ r.results.bytes

/-- An EXPORT payload (R180). -/
def ExportFrame.payload (f : ExportFrame) : List Byte :=
  [byteOf f.span.val, BankName.code f.bank] ++ twoBytes f.index ++ twoBytes f.firstBin ++ twoBytes f.levels.length ++
    [yesNoByte f.last, yesNoByte f.cancelled] ++ (f.levels.map twoBytes).flatten

/-- The bytes of a frame on the link (section 11.1): RESPONSE 2, REPORT 3, EXPORT 4. -/
def OutFrame.bytes : OutFrame → List Byte
  | .response r => envelope 2 r.tag r.payload
  | .report sequence records => envelope 3 sequence (byteOf records.length :: recordsBytes records)
  | .exported f => envelope 4 f.tag f.payload

end Sys2Proof.Machine
end

