-- ==== Sys2Proof/Machine/Link.lean ====
section
/-! DEFINITION. The shelf link port: the dispatcher (R169, R170, R175), the transmit arbiter (R171), the framer (R166,
R167), the command queue (R168) and the completion of a frame (R90, R171, R175). -/

namespace Sys2Proof.Machine

/-! ### Dispatch -/

/-- A command passed to the block that owns it (R169, case 4); RESTART and FULL_RESET are answered OK (R175). -/
def State.perform (s : State) (tag : Byte) : LinkCommand → Done
  | .planWrite span enabled port group => s.planWrite span enabled port group
  | .planRead span => s.planRead span
  | .planSeek index => s.planSeek index
  | .groupStage group pairs => s.groupStage group pairs
  | .groupCommit groups => s.groupCommit groups
  | .groupRead group => s.groupRead group
  | .clockSet day hour minute second => s.clockSet day hour minute second
  | .clockStep seconds => s.clockStep seconds
  | .clockRead => s.clockRead
  | .windowSet mask oh om ch cm => s.windowSet mask oh om ch cm
  | .windowMode mode => s.setWindowMode mode
  | .testNow span retain => s.testNow span retain
  | .retainRequest span => s.retainRequest span
  | .traceExport start count => s.traceExport tag start count
  | .reanalyse profile => s.reanalyse profile
  | .bankRelease => s.bankRelease
  | .baselineLoad span cls len launch e zones => s.baselineLoad span cls len launch e zones
  | .baselineDrop span => s.baselineDrop span
  | .baselineRead span => s.baselineRead span
  | .profileWrite profile floor p g bend grown drop tol blind confirm clear =>
    s.profileWrite profile floor p g bend grown drop tol blind confirm clear
  | .profileRead profile => s.profileRead profile
  | .conditionRead span => s.conditionRead span
  | .conditionClear span => s.conditionClear span
  | .drain n => s.drain n
  | .noticeRead => s.noticeRead
  | .noticeAck kinds => s.noticeAck kinds
  | .noticeMask pairs => s.noticeMask pairs
  | .settingsWrite pairs => s.settingsWrite pairs
  | .settingsRead => s.settingsRead
  | .statusRead => s.statusRead
  | .restart => s.ok
  | .fullReset => s.ok

/-- The dispatcher after a command: ANSWERING, or RESET_PENDING (R169, R175). -/
def dispatcherAfter : LinkCommand → Dispatcher
  | .restart => .resetPending .restart
  | .fullReset => .resetPending .fullReset
  | _ => .answering

/-- A RESPONSE placed in the response buffer, with the dispatcher's next state (R169). -/
def State.answer (s : State) (next : Dispatcher) (r : Response) : State :=
  s.withLink { s.link with dispatcher := next, buffer := some r }

/-- A command taken: its effects, then its RESPONSE in the buffer (R169). -/
def State.runCommand (s : State) (tag : Byte) (c : LinkCommand) : State :=
  (s.perform tag c).state.answer (dispatcherAfter c)
    { tag := tag, status := (s.perform tag c).status, code := c.name.code, results := (s.perform tag c).results }

/-- The command code a RESPONSE names: the payload's first byte, 0x00 when it was empty (R178). -/
def payloadCode : List Byte → Byte
  | [] => 0
  | code :: _ => code

/-- A frame taken by the dispatcher, decided by the first case of R169 that applies. -/
def State.runFrame (s : State) (f : CommandFrame) : State :=
  match decodePayload f.payload with
  | .command c => s.runCommand f.tag c
  | .malformed =>
    s.answer .answering { tag := f.tag, status := .malformed, code := payloadCode f.payload, results := .nothing }
  | .unknown =>
    s.answer .answering { tag := f.tag, status := .unknownCommand, code := payloadCode f.payload, results := .nothing }

/-- In READY the dispatcher takes the frame at the head of the queue, if there is one (R169). -/
def State.dispatch (s : State) : State :=
  match s.link.dispatcher, s.link.queue with
  | .ready, f :: rest => (s.withLink { s.link with queue := rest }).runFrame f
  | _, _ => s

/-! ### The transmit arbiter -/

def State.setTransmitter (s : State) (f : Option OutFrame) : State :=
  s.withLink { s.link with transmitter := f }

/-- The dispatcher when its RESPONSE begins to be sent (R169); a pending reset waits for its end (R175). -/
def Dispatcher.released : Dispatcher → Dispatcher
  | .answering => .ready
  | d => d

/-- The RESPONSE granted: the buffer emptied, the dispatcher READY (R169, R171). -/
def State.grantResponse (s : State) (r : Response) : State :=
  s.withLink
    { s.link with buffer := none, dispatcher := s.link.dispatcher.released, transmitter := some (.response r) }

/-- The offered EXPORT frame granted (R89, R171). -/
def State.grantExport (s : State) (f : ExportFrame) : State :=
  (s.exportBegins f).setTransmitter (some (.exported f))

/-- The offered REPORT frame granted: it takes the oldest records, up to 8, and the sequence as its tag (R156, R171). -/
def State.grantReport (s : State) : State :=
  let frame : OutFrame := .report s.reports.sequence (s.reports.records.take Config.reportRecords)
  ((s.withReports { s.reports with sequence := nextByte s.reports.sequence }).takeRecords
    Config.reportRecords).setTransmitter (some frame)

/-- A REPORT frame is offered: STREAM mode and at least one record (R156). -/
def State.reportOffered (s : State) : Bool :=
  s.reports.delivery == .stream && !s.reports.records.isEmpty

/-- The arbiter grants the IDLE transmitter to the offered RESPONSE, then EXPORT, then REPORT frame (R171). -/
def State.grant (s : State) : State :=
  match s.link.transmitter with
  | some _ => s
  | none =>
    match s.link.buffer, s.exportOffer with
    | some r, _ => s.grantResponse r
    | none, some f => s.grantExport f
    | none, none => if s.reportOffered then s.grantReport else s

/-- The command that the dispatcher takes when the grant of a RESPONSE has made it READY. Events of other blocks are taken
between two commands (R169), and a sweep that is due starts at once (R38, R39): no row of the queue can fall before this
command, so the start is taken first. It may have become due in the same step, when the end of a final EXPORT frame has
freed a bank (R82, R90), or by the command before it, taken at the effect of a reset; that the start comes first is the
model's choice (DESIGN CHOICE, log 28). -/
def State.dispatchBehind (s : State) : State :=
  match s.link.dispatcher, s.link.queue with
  | .ready, _ :: _ => s.sweepStart.dispatch
  | _, _ => s

/-- The link at the end of a step that can free the dispatcher (R169, R171, R175). In READY, to which a reset returns it,
the dispatcher takes the head of the queue at once, before a sweep that the reset makes due starts (DESIGN CHOICE, log 28)
and before the arbiter grants (log 10); the grant of a RESPONSE makes it READY for the next. -/
def State.pump (s : State) : State :=
  s.dispatch.grant.dispatchBehind

/-! ### Reception -/

/-- A frame discarded: the count rises, stopping at 65535 (R167, R168). -/
def Link.discard (l : Link) : Link :=
  { l with discarded := bump Config.countLimit l.discarded }

/-- A checked COMMAND frame joins the command queue, or is discarded when 4 frames stand there (R168). -/
def State.enqueue (s : State) (f : CommandFrame) : State :=
  if s.link.queue.length < Config.commandSlots then
    s.withLink { s.link with queue := s.link.queue ++ [f] }
  else s.withLink s.link.discard

/-- The dispatcher would take a frame that arrives now: READY, with no frame before it. -/
def State.linkFree (s : State) : Bool :=
  s.link.dispatcher == .ready && s.link.queue.isEmpty

/-- A checked COMMAND frame arrives (R168, R169): taken in the same step when nothing stands before it. -/
def State.receiveFrame (s : State) (f : CommandFrame) : State :=
  if s.linkFree then (s.runFrame f).grant else s.enqueue f

/-- A command arrives in a checked COMMAND frame (R168, R169; log 2). -/
def State.receive (s : State) (tag : Byte) (c : LinkCommand) : State :=
  if s.linkFree then (s.runCommand tag c).grant else s.enqueue { tag := tag, payload := encodePayload c }

def State.setFramer (s : State) (x : Framer) : State :=
  s.withLink { s.link with framer := x }

/-- The second length byte: the checks of kind and length, then PAYLOAD, or CHECK when the length is 0 (R166, R167). -/
def State.headerDone (s : State) (kind tag : Byte) (length : Half) : State :=
  if kind != 1 || decide (1024 < length.toNat) then (s.withLink s.link.discard).setFramer .seek
  else if length = 0 then s.setFramer (.check kind tag length [] none)
  else s.setFramer (.payload kind tag length [])

/-- A payload byte kept; CHECK when the payload holds length bytes (R166). -/
def State.payloadByte (s : State) (kind tag : Byte) (length : Half) (bytes : List Byte) : State :=
  if length.toNat ≤ bytes.length then s.setFramer (.check kind tag length bytes none)
  else s.setFramer (.payload kind tag length bytes)

/-- The second CRC byte: the CRC check, then SEEK (R166, R167). -/
def State.checkDone (s : State) (kind tag : Byte) (length : Half) (bytes : List Byte) (crc : Half) : State :=
  if crc = frameCrc kind tag length bytes then
    (s.setFramer .seek).receiveFrame { tag := tag, payload := bytes }
  else (s.withLink s.link.discard).setFramer .seek

/-- One byte taken by the framer (R166). -/
def State.takeByte (s : State) (b : Byte) : State :=
  match s.link.framer with
  | .seek => if b = 0xC3 then s.setFramer .syncSeen else s
  | .syncSeen =>
    if b = 0x3C then s.setFramer (.header []) else if b = 0xC3 then s else s.setFramer .seek
  | .header [] => s.setFramer (.header [b])
  | .header [kind] => s.setFramer (.header [kind, b])
  | .header [kind, tag] => s.setFramer (.header [kind, tag, b])
  | .header (kind :: tag :: high :: _) => s.headerDone kind tag (halfOf high b)
  | .payload kind tag length bytes => s.payloadByte kind tag length (bytes ++ [b])
  | .check kind tag length bytes none => s.setFramer (.check kind tag length bytes (some b))
  | .check kind tag length bytes (some high) => s.checkDone kind tag length bytes (halfOf high b)

/-- Bytes received on the shelf link, in order (R166). -/
def State.takeBytes (s : State) : List Byte → State
  | [] => s
  | b :: rest => (s.takeByte b).takeBytes rest

/-! ### Completion of a frame -/

/-- The transmitter completes its frame (R171): an EXPORT frame's source is told (R90), the OK of a pending reset makes the
reset take effect (R175). -/
def State.transmitted (s : State) (f : OutFrame) : State :=
  match f, s.link.dispatcher, s.link.buffer with
  | .response _, .resetPending k, none => s.resetEffect k
  | .exported x, _, _ => s.exportSent x
  | _, _, _ => s

/-- FRAME_SENT (R171). -/
def State.frameSent (s : State) : State :=
  match s.link.transmitter with
  | some f => ((s.setTransmitter none).transmitted f).pump
  | none => s

end Sys2Proof.Machine
end

