-- ==== Sys2Proof/Machine/Commands.lean ====
section
/-! DEFINITION. The meanings of the shelf commands: each arrives in a checked COMMAND frame with its tag, is taken when the
dispatcher is READY and otherwise waits in the command queue (R168, R169; log 2). -/

namespace Sys2Proof.Machine

/-- PLAN_WRITE (R2, R3). -/
def execPlanWrite (tag : Byte) (span enabled port group : Byte) (s : State) : Out :=
  .next (s.receive tag (.planWrite span enabled port group))

/-- PLAN_READ (R4). -/
def execPlanRead (tag : Byte) (span : Byte) (s : State) : Out :=
  .next (s.receive tag (.planRead span))

/-- PLAN_SEEK (R6). -/
def execPlanSeek (tag : Byte) (index : Byte) (s : State) : Out :=
  .next (s.receive tag (.planSeek index))

/-- GROUP_STAGE (R16). -/
def execGroupStage (tag : Byte) (group : Byte) (pairs : List (Byte × Word)) (s : State) : Out :=
  .next (s.receive tag (.groupStage group pairs))

/-- GROUP_COMMIT (R17). -/
def execGroupCommit (tag : Byte) (groups : List Byte) (s : State) : Out :=
  .next (s.receive tag (.groupCommit groups))

/-- GROUP_READ (R18). -/
def execGroupRead (tag : Byte) (group : Byte) (s : State) : Out :=
  .next (s.receive tag (.groupRead group))

/-- CLOCK_SET (R22). -/
def execClockSet (tag : Byte) (day hour minute second : Byte) (s : State) : Out :=
  .next (s.receive tag (.clockSet day hour minute second))

/-- CLOCK_STEP (R24, R25). -/
def execClockStep (tag : Byte) (seconds : Half) (s : State) : Out :=
  .next (s.receive tag (.clockStep seconds))

/-- CLOCK_READ (R23). -/
def execClockRead (tag : Byte) (s : State) : Out :=
  .next (s.receive tag .clockRead)

/-- WINDOW_SET (R26). -/
def execWindowSet (tag : Byte) (dayMask openHour openMinute closeHour closeMinute : Byte) (s : State) : Out :=
  .next (s.receive tag (.windowSet dayMask openHour openMinute closeHour closeMinute))

/-- WINDOW_MODE (R28). -/
def execWindowMode (tag : Byte) (mode : Byte) (s : State) : Out :=
  .next (s.receive tag (.windowMode mode))

/-- TEST_NOW (R57, R58). -/
def execTestNow (tag : Byte) (span retain : Byte) (s : State) : Out :=
  .next (s.receive tag (.testNow span retain))

/-- RETAIN_REQUEST (R86). -/
def execRetainRequest (tag : Byte) (span : Byte) (s : State) : Out :=
  .next (s.receive tag (.retainRequest span))

/-- TRACE_EXPORT (R88). -/
def execTraceExport (tag : Byte) (start count : Half) (s : State) : Out :=
  .next (s.receive tag (.traceExport start count))

/-- REANALYSE (R91). -/
def execReanalyse (tag : Byte) (profile : Byte) (s : State) : Out :=
  .next (s.receive tag (.reanalyse profile))

/-- BANK_RELEASE (R93). -/
def execBankRelease (tag : Byte) (s : State) : Out :=
  .next (s.receive tag .bankRelease)

/-- BASELINE_LOAD (R101 to R105). -/
def execBaselineLoad (tag : Byte) (span cls binLength : Byte) (launch endBin : Half)
    (zones : List ZoneWords) (s : State) : Out :=
  .next (s.receive tag (.baselineLoad span cls binLength launch endBin zones))

/-- BASELINE_DROP (R106). -/
def execBaselineDrop (tag : Byte) (span : Byte) (s : State) : Out :=
  .next (s.receive tag (.baselineDrop span))

/-- BASELINE_READ (R107). -/
def execBaselineRead (tag : Byte) (span : Byte) (s : State) : Out :=
  .next (s.receive tag (.baselineRead span))

/-- PROFILE_WRITE (R113). -/
def execProfileWrite (tag : Byte) (profile : Byte) (floor : Half) (persistence stepGap : Byte)
    (bend grown breakDrop : Half) (tolerance blind confirm clearCount : Byte) (s : State) : Out :=
  .next (s.receive tag (.profileWrite profile floor persistence stepGap bend grown breakDrop tolerance blind confirm clearCount))

/-- PROFILE_READ (R114). -/
def execProfileRead (tag : Byte) (profile : Byte) (s : State) : Out :=
  .next (s.receive tag (.profileRead profile))

/-- CONDITION_READ (R144). -/
def execConditionRead (tag : Byte) (span : Byte) (s : State) : Out :=
  .next (s.receive tag (.conditionRead span))

/-- CONDITION_CLEAR (R145). -/
def execConditionClear (tag : Byte) (span : Byte) (s : State) : Out :=
  .next (s.receive tag (.conditionClear span))

/-- DRAIN (R157). -/
def execDrain (tag : Byte) (n : Byte) (s : State) : Out :=
  .next (s.receive tag (.drain n))

/-- NOTICE_READ (R163). -/
def execNoticeRead (tag : Byte) (s : State) : Out :=
  .next (s.receive tag .noticeRead)

/-- NOTICE_ACK (R163). -/
def execNoticeAck (tag : Byte) (kinds : List Byte) (s : State) : Out :=
  .next (s.receive tag (.noticeAck kinds))

/-- NOTICE_MASK (R164). -/
def execNoticeMask (tag : Byte) (pairs : List (Byte × Byte)) (s : State) : Out :=
  .next (s.receive tag (.noticeMask pairs))

/-- SETTINGS_WRITE (R173). -/
def execSettingsWrite (tag : Byte) (pairs : List (Byte × Half)) (s : State) : Out :=
  .next (s.receive tag (.settingsWrite pairs))

/-- SETTINGS_READ (R173). -/
def execSettingsRead (tag : Byte) (s : State) : Out :=
  .next (s.receive tag .settingsRead)

/-- STATUS_READ (R174). -/
def execStatusRead (tag : Byte) (s : State) : Out :=
  .next (s.receive tag .statusRead)

/-- RESTART (R175): answered OK; the effect follows the OK. -/
def execRestart (tag : Byte) (s : State) : Out :=
  .next (s.receive tag .restart)

/-- FULL_RESET (R175): answered OK; the effect follows the OK. -/
def execFullReset (tag : Byte) (s : State) : Out :=
  .next (s.receive tag .fullReset)

/-- UNKNOWN_COMMAND (R169, cases 1 and 2): a checked frame whose payload is empty or names no command. -/
def execUnknownCommand (tag : Byte) (payload : List Byte) (s : State) : Out :=
  .next (s.receiveFrame { tag := tag, payload := payload })

end Sys2Proof.Machine
end

