-- ==== Sys2Proof/Machine/Events.lean ====
section
/-! DEFINITION. The meanings of the events. An event that can put records or free the link ends with the arbiter's grant
(R171; log 10). -/

namespace Sys2Proof.Machine

/-- POWER_ON (R176). -/
def execPowerOn (s : State) : Out :=
  .next (s.hardReset .powerOn)

/-- RESET_INPUT (R176). -/
def execResetInput (s : State) : Out :=
  .next (s.hardReset .resetInput)

/-- COMMAND_FRAME (R166, R167). -/
def execCommandFrame (bytes : List Byte) (s : State) : Out :=
  .next (s.takeBytes bytes)

/-- FRAME_SENT (R171). -/
def execFrameSent (s : State) : Out :=
  .next s.frameSent

/-- SECOND_EVENT (R19). -/
def execSecondEvent (s : State) : Out :=
  .next s.secondEvent.grant

/-- REFERENCE_LOST (R20). -/
def execReferenceLost (s : State) : Out :=
  .next s.referenceLost.grant

/-- REFERENCE_PRESENT (R20). -/
def execReferencePresent (s : State) : Out :=
  .next s.referencePresent

/-- GRACE_TIMER_EXPIRY (R31, R61). -/
def execGraceTimerExpiry (s : State) : Out :=
  .next s.graceExpires.grant

/-- SET_REPLY (R42, R44). -/
def execSetReply (port : Byte) (s : State) : Out :=
  .next (s.selectorSet port)

/-- FAULT_REPLY (R42, R44). -/
def execFaultReply (s : State) : Out :=
  .next s.selectorFault

/-- SELECTOR_TIMER_EXPIRY (R42, R44). -/
def execSelectorTimerExpiry (s : State) : Out :=
  .next s.selectorExpires

/-- SETTLE_TIMER_EXPIRY (R45). -/
def execSettleTimerExpiry (s : State) : Out :=
  .next s.settleExpires

/-- HOT_HOLD_TIMER_EXPIRY (R52). -/
def execHotHoldTimerExpiry (s : State) : Out :=
  .next s.hotHoldExpires

/-- HEADER_WORD (R68, R71). -/
def execHeaderWord (tag : Byte) (binCount : Half) (s : State) : Out :=
  .next (s.headerArrives tag binCount)

/-- SAMPLE_WORD (R69). -/
def execSampleWord (level : Half) (s : State) : Out :=
  .next (s.sampleArrives level)

/-- TRAILER_WORD (R70). -/
def execTrailerWord (saturated : Bool) (s : State) : Out :=
  .next (s.trailerArrives saturated)

/-- STATUS_WORD (R77). -/
def execStatusWord (temperature : Int) (s : State) : Out :=
  .next (s.statusArrives temperature)

/-- SHOT_TIMER_EXPIRY (R72). -/
def execShotTimerExpiry (tag : Byte) (s : State) : Out :=
  .next (s.shotExpires tag)

/-- SAMPLE_SUMMED (R74). -/
def execSampleSummed (s : State) : Out :=
  .next s.sumSample

/-- ACCUMULATION_COMPLETE (R74). -/
def execAccumulationComplete (s : State) : Out :=
  .next s.completeAccumulation

/-- SWEEP_START (R39). -/
def execSweepStart (s : State) : Out :=
  .next s.sweepStart.grant

/-- SWEEP_COMPLETE (R51). -/
def execSweepComplete (s : State) : Out :=
  .next s.sweepComplete.grant

/-- CLOSING_ACTIONS (R55). -/
def execClosingActions (s : State) : Out :=
  .next s.closingActions.grant

/-- ANALYSIS_TAKING (R116). -/
def execAnalysisTaking (s : State) : Out :=
  .next s.takeReady

/-- ANALYSIS_COMPLETION (R131). -/
def execAnalysisCompletion (s : State) : Out :=
  .next s.analysisCompletes.grant

/-- REANALYSIS_COMPLETION (R132). -/
def execReanalysisCompletion (s : State) : Out :=
  .next s.reanalysisCompletes.grant

/-- HOLD_TIMER_EXPIRY (R87). -/
def execHoldTimerExpiry (bank : BankName) (s : State) : Out :=
  .next (s.holdExpires bank)

end Sys2Proof.Machine
end

