-- ==== Sys2Proof/Machine/Dispatch.lean ====
section
/-! DEFINITION. The one dispatch: each command to its meaning. -/

namespace Sys2Proof.Machine

def exec (i : Instr) (s : State) : Host.Outcome State Fault Refusal :=
  match i with
  | .planWrite tag span enabled port group => Sys2Proof.Machine.execPlanWrite tag span enabled port group s
  | .planRead tag span => Sys2Proof.Machine.execPlanRead tag span s
  | .planSeek tag index => Sys2Proof.Machine.execPlanSeek tag index s
  | .groupStage tag group pairs => Sys2Proof.Machine.execGroupStage tag group pairs s
  | .groupCommit tag groups => Sys2Proof.Machine.execGroupCommit tag groups s
  | .groupRead tag group => Sys2Proof.Machine.execGroupRead tag group s
  | .clockSet tag day hour minute second => Sys2Proof.Machine.execClockSet tag day hour minute second s
  | .clockStep tag seconds => Sys2Proof.Machine.execClockStep tag seconds s
  | .clockRead tag => Sys2Proof.Machine.execClockRead tag s
  | .windowSet tag dayMask openHour openMinute closeHour closeMinute => Sys2Proof.Machine.execWindowSet tag dayMask openHour openMinute closeHour closeMinute s
  | .windowMode tag mode => Sys2Proof.Machine.execWindowMode tag mode s
  | .testNow tag span retain => Sys2Proof.Machine.execTestNow tag span retain s
  | .retainRequest tag span => Sys2Proof.Machine.execRetainRequest tag span s
  | .traceExport tag start count => Sys2Proof.Machine.execTraceExport tag start count s
  | .reanalyse tag profile => Sys2Proof.Machine.execReanalyse tag profile s
  | .bankRelease tag => Sys2Proof.Machine.execBankRelease tag s
  | .baselineLoad tag span cls binLength launch endBin zones => Sys2Proof.Machine.execBaselineLoad tag span cls binLength launch endBin zones s
  | .baselineDrop tag span => Sys2Proof.Machine.execBaselineDrop tag span s
  | .baselineRead tag span => Sys2Proof.Machine.execBaselineRead tag span s
  | .profileWrite tag profile floor persistence stepGap bend grown breakDrop tolerance blind confirm clearCount => Sys2Proof.Machine.execProfileWrite tag profile floor persistence stepGap bend grown breakDrop tolerance blind confirm clearCount s
  | .profileRead tag profile => Sys2Proof.Machine.execProfileRead tag profile s
  | .conditionRead tag span => Sys2Proof.Machine.execConditionRead tag span s
  | .conditionClear tag span => Sys2Proof.Machine.execConditionClear tag span s
  | .drain tag n => Sys2Proof.Machine.execDrain tag n s
  | .noticeRead tag => Sys2Proof.Machine.execNoticeRead tag s
  | .noticeAck tag kinds => Sys2Proof.Machine.execNoticeAck tag kinds s
  | .noticeMask tag pairs => Sys2Proof.Machine.execNoticeMask tag pairs s
  | .settingsWrite tag pairs => Sys2Proof.Machine.execSettingsWrite tag pairs s
  | .settingsRead tag => Sys2Proof.Machine.execSettingsRead tag s
  | .statusRead tag => Sys2Proof.Machine.execStatusRead tag s
  | .restart tag => Sys2Proof.Machine.execRestart tag s
  | .fullReset tag => Sys2Proof.Machine.execFullReset tag s
  | .unknownCommand tag payload => Sys2Proof.Machine.execUnknownCommand tag payload s
  | .powerOn => Sys2Proof.Machine.execPowerOn s
  | .resetInput => Sys2Proof.Machine.execResetInput s
  | .commandFrame bytes => Sys2Proof.Machine.execCommandFrame bytes s
  | .frameSent => Sys2Proof.Machine.execFrameSent s
  | .secondEvent => Sys2Proof.Machine.execSecondEvent s
  | .referenceLost => Sys2Proof.Machine.execReferenceLost s
  | .referencePresent => Sys2Proof.Machine.execReferencePresent s
  | .graceTimerExpiry => Sys2Proof.Machine.execGraceTimerExpiry s
  | .setReply port => Sys2Proof.Machine.execSetReply port s
  | .faultReply => Sys2Proof.Machine.execFaultReply s
  | .selectorTimerExpiry => Sys2Proof.Machine.execSelectorTimerExpiry s
  | .settleTimerExpiry => Sys2Proof.Machine.execSettleTimerExpiry s
  | .hotHoldTimerExpiry => Sys2Proof.Machine.execHotHoldTimerExpiry s
  | .headerWord tag binCount => Sys2Proof.Machine.execHeaderWord tag binCount s
  | .sampleWord level => Sys2Proof.Machine.execSampleWord level s
  | .trailerWord saturated => Sys2Proof.Machine.execTrailerWord saturated s
  | .statusWord temperature => Sys2Proof.Machine.execStatusWord temperature s
  | .shotTimerExpiry tag => Sys2Proof.Machine.execShotTimerExpiry tag s
  | .sampleSummed => Sys2Proof.Machine.execSampleSummed s
  | .accumulationComplete => Sys2Proof.Machine.execAccumulationComplete s
  | .sweepStart => Sys2Proof.Machine.execSweepStart s
  | .sweepComplete => Sys2Proof.Machine.execSweepComplete s
  | .closingActions => Sys2Proof.Machine.execClosingActions s
  | .analysisTaking => Sys2Proof.Machine.execAnalysisTaking s
  | .analysisCompletion => Sys2Proof.Machine.execAnalysisCompletion s
  | .reanalysisCompletion => Sys2Proof.Machine.execReanalysisCompletion s
  | .holdTimerExpiry bank => Sys2Proof.Machine.execHoldTimerExpiry bank s

end Sys2Proof.Machine
end

