-- ==== Sys2Proof/Machine/Step.lean ====
section
/-! DEFINITION. One step: the command at the front of the queue, or one REFCLK edge when none waits. -/

namespace Sys2Proof.Machine

/-- The state of an empty queue's step: one REFCLK edge, a second event at the 32768th (R19), with the arbiter's grant of
what that second event puts (log 4). -/
def State.idleStep (s : State) : State :=
  s.refclkEdge.grant

/-- One step of the part. -/
def step (s : State) : Host.Outcome State Fault Refusal :=
  match s.pending with
  | [] => .next s.idleStep
  | c :: rest => exec c (s.withPending rest)

/-- The state with the command that a word of the table spells at the front of its queue; no row of the table gives bits,
so no word spells one and the state is unchanged. -/
def State.withFetchWord (s : State) (nbits w : Nat) : State :=
  match decodeTableWord nbits w with
  | some c => s.withPending (c :: s.pending)
  | none => s

end Sys2Proof.Machine
end

