-- ==== Sys2Proof/Safety.lean ====
section
/-! DEFINITION. The laws of the part that the manual states of every state it can be in, as properties of State, and the
words in which statements speak of a command's answer. -/

namespace Sys2Proof.Machine

/-! ### Laws -/

/-- The free records of the pool and those held by the present baselines number 2048 (R98). -/
def State.PoolLaw (s : State) : Prop :=
  s.baselines.poolFree + (s.baselines.slots.toList.map BaselineSlot.held).sum = Config.poolSize

/-- Among the enabled entries, no two name the same selector port (R1). -/
def State.PortsLaw (s : State) : Prop :=
  ∀ i j : Span, i ≠ j → (s.entry i).enabled = true → (s.entry j).enabled = true → (s.entry i).port ≠ (s.entry j).port

/-- The live set of every group has max class at or above its base class (R15). -/
def State.LiveLaw (s : State) : Prop :=
  ∀ g : GroupNo, (s.group g).live.baseClass ≤ (s.group g).live.maxClass

/-- Intake occupancy and the samples not yet received of outstanding shots never exceed 32768 (R67), and at most two shots
are outstanding (R66). -/
def State.IntakeLaw (s : State) : Prop :=
  s.port.fifo.length + s.port.expected ≤ Config.fifoCapacity ∧ s.port.outstanding.length ≤ 2

/-- The re-check queue holds at most 32 entries, names each span at most once, and names only spans whose plan entry is
enabled and whose baseline is present (R146). -/
def State.RecheckLaw (s : State) : Prop :=
  s.conditions.recheck.length ≤ Config.recheckSlots ∧ (s.conditions.recheck.map (·.span)).Nodup ∧
    ∀ e ∈ s.conditions.recheck, s.admissible e.span = true

/-- The lead is present exactly in SUSPECT and FAULTED, the attempts are 0 but in SUSPECT and stay below 3, the streak is 0
but in FAULTED (R134). -/
def ConditionEntry.Law (e : ConditionEntry) : Prop :=
  (e.lead.isSome = true ↔ e.state = .suspect ∨ e.state = .faulted) ∧ (e.state ≠ .suspect → e.attempts = 0) ∧
    e.attempts < 3 ∧ (e.state ≠ .faulted → e.streak = 0)

/-- Every condition entry keeps its law (R134). -/
def State.ConditionLaw (s : State) : Prop :=
  ∀ sp : Span, (s.condition sp).Law

/-- A span that is SUSPECT or FAULTED has a present baseline (R110). -/
def State.FaultedLaw (s : State) : Prop :=
  ∀ sp : Span, (s.condition sp).state = .suspect ∨ (s.condition sp).state = .faulted →
    (s.slot sp).record.isSome = true

/-- An ACTIVE cycle belongs to an OPEN window (R10). -/
def State.CycleLaw (s : State) : Prop :=
  s.plan.active.isSome = true → s.window.state = .opened

/-- The bin sums of both banks are in canonical form (the model's own form of them). -/
def State.SumsLaw (s : State) : Prop :=
  ∀ n : BankName, (s.bank n).sums.wf = true

/-- The command queue holds at most 4 frames (R168). -/
def State.QueueLaw (s : State) : Prop :=
  s.link.queue.length ≤ Config.commandSlots

/-- The work a bank stands for holds a reservation: a sweep in flight, its analysis waiting or running, or a reanalysis
waiting or running (R153). -/
def Bank.holdsSlots (b : Bank) : Bool :=
  match b.state, b.reanalysis with
  | .filling, _ | .full, _ | .analysing, _ => true
  | .held, .waiting _ => true
  | _, _ => false

/-- The slots reserved for a bank's work (R153). -/
def Bank.slots (b : Bank) : Nat :=
  if b.holdsSlots then Config.reservation else 0

/-- Occupancy and outstanding reservations never exceed 128 (R151): each reservation belongs to the work of one bank
(R153), the sweep the engine holds fills its bank (R39), and the bank of the analysis record is ANALYSING (R116). -/
def State.SlotsLaw (s : State) : Prop :=
  s.reports.occupancy + s.reports.reserved ≤ Config.reportSlots ∧
    s.reports.reserved = s.banks.a.slots + s.banks.b.slots ∧
    (∀ n, s.engine.bank = some n → (s.bank n).state = .filling) ∧
    ∀ r, s.analyser.record = some r → (s.bank r.bank).state = .analysing

/-! ### Answers -/

/-- The response `r` has been placed: it is in transmission when the transmitter was IDLE, with the dispatcher READY (or
its reset pending), and in the response buffer otherwise (R169, R171). Nothing else of the link has changed. -/
def Answered (s t : State) (d : Dispatcher) (r : Response) : Prop :=
  (s.link.transmitter = none →
    t.link = { s.link with dispatcher := d.released, buffer := none, transmitter := some (.response r) }) ∧
  (s.link.transmitter ≠ none → t.link = { s.link with dispatcher := d, buffer := some r })

/-- The command is taken and answered: `exec` answers next with a state `t` of which `P` holds, and the RESPONSE with this
status and these results has been placed (R169). -/
def AnswersWith (i : Instr) (s : State) (st : Status) (res : Results) (P : State → Prop) : Prop :=
  ∃ (t : State) (tag : Byte) (c : LinkCommand),
    i.asLink = some (tag, c) ∧ exec i s = .next t ∧ P t ∧
      Answered s t (dispatcherAfter c) { tag := tag, status := st, code := c.name.code, results := res }

/-- The command is taken and answered, and leaves `d`: nothing but the link differs from `d` (R169). -/
def Answers (i : Instr) (s d : State) (st : Status) (res : Results) : Prop :=
  AnswersWith i s st res fun t => t = { d with link := t.link }

/-- The command is refused: answered with a status and no result, nothing changed (R169). -/
def Refuses (i : Instr) (s : State) (st : Status) : Prop :=
  Answers i s s st .nothing

/-- The frame in which a shelf command's row, or UNKNOWN_COMMAND, arrives (R168). -/
def rowFrame (i : Instr) : Option CommandFrame :=
  match i with
  | .unknownCommand tag payload => some { tag := tag, payload := payload }
  | j => j.asLink.map fun x => { tag := x.1, payload := encodePayload x.2 }

/-- Between `s` and `t` the engine has chosen, and done nothing else (R38, R40): a sweep in flight is left alone; without
one the engine is WAITING when a source exists in `t`, and IDLE otherwise. -/
def Chosen (s t : State) : Prop :=
  (s.sweepInFlight = true → t.engine = s.engine) ∧
    (s.sweepInFlight = false →
      t.engine = { s.engine with state := if t.sourceExists = true then .waiting else .idle })

/-- The engine has decided an outcome (R53), and touched nothing else of itself. -/
def Engine.decided (e : Engine) (o : EngineOutcome) : Engine :=
  { e with state := .draining, outcome := some o, settleTimer := none, hotHoldTimer := false }

/-- The pending set with one more kind raised (R161). -/
def Notices.raised (x : Notices) (k : NoticeKind) : Notices :=
  { x with pending := x.pending ||| kindBit k.number }

/-! ### Fields by number -/

/-- A value lies in a range, both ends included; a field with no range takes no value. -/
def InRange {α : Type} [LE α] (range : Option (α × α)) (v : α) : Prop :=
  ∃ lo hi, range = some (lo, hi) ∧ lo ≤ v ∧ v ≤ hi

/-- What a list of numbered values leaves in number `k`: the value of the last pair that names it, or the old one. -/
def lastOf {α : Type} (k : Nat) (old : α) (pairs : List (Nat × α)) : α :=
  pairs.foldl (fun x p => if p.1 = k then p.2 else x) old

/-- The fields of a group's set by their identifiers (R178). -/
def GroupSettings.field (g : GroupSettings) : Nat → Nat
  | 0 => g.baseClass.val
  | 1 => g.maxClass.val
  | 2 => g.binCount
  | 3 => g.binLength
  | 4 => g.shotCount
  | 5 => g.settleTime
  | 6 => g.rejectLimit
  | 7 => g.litLevel
  | 8 => g.profile.val
  | _ => 0

/-- The ranges of the fields for GROUP_STAGE (R16, section 1.4): max class is held to 0 to 5. -/
def stageRange : Nat → Option (Nat × Nat)
  | 0 | 1 => some (0, 5)
  | 2 => some (256, 16384)
  | 3 => some (1, 100)
  | 4 => some (16, 65536)
  | 5 => some (1, 250)
  | 6 => some (1, 255)
  | 7 => some (0, 65535)
  | 8 => some (0, 7)
  | _ => none

/-- The device settings by their identifiers (section 10.4); STREAM is 0 and HELD is 1 (R177). -/
def Settings.value (x : Settings) : Nat → Int
  | 0 => x.selectorTimeout
  | 1 => x.hotLimit
  | 2 => x.coolLimit
  | 3 => x.holdLimit
  | 4 => x.closeGrace
  | 5 => x.delivery.code
  | 6 => x.pauseMark
  | 7 => x.resumeMark
  | _ => 0

/-- The ranges of the settings (section 10.4). -/
def settingRange : Nat → Option (Int × Int)
  | 0 => some (50, 2000)
  | 1 | 2 => some (-40, 125)
  | 3 => some (60, 3600)
  | 4 => some (0, 900)
  | 5 => some (0, 1)
  | 6 => some (16, 117)
  | 7 => some (8, 112)
  | _ => none

/-- The zone record that a zone of BASELINE_LOAD stands for (R177, R178). -/
def zoneRecord (z : ZoneWords) : Zone :=
  { endBin := z.endBin.toNat, startLevel := z.startLevel.toNat, endLevel := z.endLevel.toNat,
    kind := if z.endKind = 0 then .splice else if z.endKind = 1 then .connector else .fibreEnd }

/-- The range checks of BASELINE_LOAD (R101). -/
def LoadInRange (span cls binLength : Byte) (launch endBin : Half) (zones : List ZoneWords) : Prop :=
  span.toNat ≤ 191 ∧ cls.toNat ≤ 5 ∧ 1 ≤ binLength.toNat ∧ binLength.toNat ≤ 100 ∧ launch.toNat ≤ 16382 ∧
    endBin.toNat ≤ 16383 ∧ 1 ≤ zones.length ∧ zones.length ≤ 24 ∧
    ∀ z ∈ zones, z.endBin.toNat ≤ 16383 ∧ z.endKind.toNat ≤ 2

/-- The structural checks of BASELINE_LOAD (R102): the end bins rise strictly from above the launch bin; the last zone, and
it alone, has end kind END, and ends at E. -/
def LoadStructured (launch endBin : Half) (zones : List ZoneWords) : Prop :=
  (launch.toNat :: zones.map (·.endBin.toNat)).Pairwise (· < ·) ∧
    (∃ z, zones.getLast? = some z ∧ z.endBin = endBin ∧ z.endKind = 2) ∧ ∀ z ∈ zones.dropLast, z.endKind ≠ 2

/-! ### Changes that several commands share

Each relation speaks of a state before, `s`, and a state after, `t`, in the fields of State; statements cite it where a
command makes that change. -/

/-- The notices after some kinds have been raised (R161), REPORT_HIGH among them when back-pressure has become set (R155);
the mask stays. -/
def NoticesGain (s t : State) (kinds : List NoticeKind) : Prop :=
  t.notices.mask = s.notices.mask ∧
    ∀ k : NoticeKind, k.isIn t.notices.pending = true ↔ k.isIn s.notices.pending = true ∨ k ∈ kinds ∨
      (k = .reportHigh ∧ s.reports.backPressure = false ∧ t.reports.backPressure = true)

/-- The report queue after a record put without a reservation (R154): stored when a slot is neither occupied nor reserved,
counted as omitted otherwise; back-pressure is set at the pause mark (R155). -/
def Reports.edged (r : Reports) (x : Record) : Reports :=
  if r.records.length + r.reserved < 128 then
    { r with
      records := r.records ++ [x]
      backPressure := r.backPressure || decide (r.pauseMark ≤ r.records.length + 1) }
  else { r with omitted := if r.omitted < 65535 then r.omitted + 1 else r.omitted }

/-- The report queue after several such records, in order. -/
def Reports.edgedAll (r : Reports) (l : List Record) : Reports :=
  l.foldl Reports.edged r

/-- The report queue after the records of one work whose reservation of 9 ends with them (R153, R155). -/
def Reports.worked (r : Reports) (l : List Record) : Reports :=
  { r with
    records := r.records ++ l
    reserved := r.reserved - 9
    backPressure := r.backPressure || decide (r.pauseMark ≤ r.records.length + l.length) }

/-! #### Cycles and the window -/

/-- The plan with a cycle that starts at the cursor (R10). -/
def Plan.begun (p : Plan) : Plan :=
  let number := if p.lastNumber < 65535 then p.lastNumber + 1 else 1
  { p with
    lastNumber := number
    active := some
      { number := number, start := p.cursor, planStarted := 0, planEnded := 0, extraStarted := 0, extraEnded := 0 } }

/-- A cycle with one more sweep counted as ended (R12). -/
def CycleRecord.ended (c : CycleRecord) : CountedAs → CycleRecord
  | .plan => { c with planEnded := if c.planEnded < 65535 then c.planEnded + 1 else c.planEnded }
  | .extra => { c with extraEnded := if c.extraEnded < 65535 then c.extraEnded + 1 else c.extraEnded }

/-- The CYCLE_END record of an ENDING cycle (R13). -/
def EndingCycle.record (e : EndingCycle) : Record :=
  .cycleEnd e.cycle.number e.cycle.start e.reason e.cycle.planEnded e.cycle.extraEnded e.notReached

/-- The end of a sweep of cycle `cycle` counted (R12), from plan `p` to plan `q`: in the ACTIVE or the ENDING cycle that
bears the number. An ENDING cycle with no sweep left unreported is dropped and puts its CYCLE_END (R13): `ends` holds it. -/
def EndCounted (p q : Plan) (cycle : Option Nat) (as : CountedAs) (ends : List Record) : Prop :=
  (cycle = none → q = p ∧ ends = []) ∧
    ∀ k, cycle = some k →
      (∀ a, p.active = some a → a.number = k → q = { p with active := some (a.ended as) } ∧ ends = []) ∧
      ((∀ a, p.active = some a → a.number ≠ k) →
        ((∀ e ∈ p.ending, e.cycle.number ≠ k) → q = p ∧ ends = []) ∧
        ∀ before e after, p.ending = before ++ e :: after → e.cycle.number = k →
          (∀ x ∈ before, x.cycle.number ≠ k) →
          let counted : EndingCycle := { e with cycle := e.cycle.ended as }
          let left := (counted.cycle.planStarted + counted.cycle.extraStarted) -
            (counted.cycle.planEnded + counted.cycle.extraEnded)
          (left = 0 → q = { p with ending := before ++ after } ∧ ends = [counted.record]) ∧
          (left ≠ 0 → q = { p with ending := before ++ counted :: after } ∧ ends = []))

/-- The window has become OPEN from CLOSED or CLOSING (R29): from CLOSED with its edge record, in a free slot or counted as
omitted (R33, R154); a cycle starts at the cursor when an entry is enabled (R10), and the engine chooses. -/
def Opens (s t : State) (cause : EdgeCause) : Prop :=
  let edge := Record.windowEdge .opened cause s.window.time s.window.integrity
  t.window = { s.window with state := .opened, grace := .stopped } ∧
    t.plan = (if s.anyEnabled = true then s.plan.begun else s.plan) ∧
    t.reports = (if s.window.state = .closed then s.reports.edged edge else s.reports) ∧
    NoticesGain s t (if s.window.state = .closed then [.windowEdge] else []) ∧ Chosen s t ∧
    t =
      { s with
        window := t.window, plan := t.plan, engine := t.engine, reports := t.reports, notices := t.notices }

/-- The CLOSED edge record of a window with the cause recorded (R33; log 19 where none is recorded). -/
def Window.closedEdge (w : Window) : Record :=
  .windowEdge .closed (w.closeCause.getD .matched) w.time w.integrity

/-- An OPEN window has left OPEN (R30): its cycle has ended with reason CLOSE (R11, R13); without a sweep in flight it is
CLOSED with its edge record; with one it is CLOSING with the grace timer started, and a grace of 0 cuts the sweep at once
(R31, R61). The order of CYCLE_END and edge record is open (log 7), and the model's counter of free values advances. -/
def Leaves (s t : State) (cause : EdgeCause) : Prop :=
  let edges := if s.sweepInFlight = true then [] else [Record.windowEdge .closed cause s.window.time s.window.integrity]
  let record (c : CycleRecord) : EndingCycle := { cycle := c, reason := .close, notReached := s.plan.notReached c }
  let ends :=
    match s.plan.active with
    | some c => if c.inFlight = 0 then [(record c).record] else []
    | none => []
  let cut := s.sweepInFlight = true ∧ s.window.graceSetting = 0 ∧ ∃ c, s.context = some c ∧ s.stoppable c = true
  t.plan =
      { s.plan with
        active := none
        ending :=
          match s.plan.active with
          | some c => if c.inFlight = 0 then s.plan.ending else s.plan.ending ++ [record c]
          | none => s.plan.ending } ∧
    (s.sweepInFlight = false → t.window =
      { s.window with state := .closed, grace := .stopped, closeCause := some cause }) ∧
    (s.sweepInFlight = true → t.window =
      { s.window with
        state := .closing, closeCause := some cause
        grace := if s.window.graceSetting = 0 then .expired else .running s.window.graceSetting }) ∧
    (t.reports = s.reports.edgedAll (ends ++ edges) ∨ t.reports = s.reports.edgedAll (edges ++ ends)) ∧
    NoticesGain s t ((if ends = [] then [] else [.cycleDone]) ++ if edges = [] then [] else [.windowEdge]) ∧
    (cut → t.engine = s.engine.decided .cut ∧ t.port = s.port.discardSweep) ∧
    (¬cut → Chosen s t ∧ t.port = s.port) ∧
    t =
      { s with
        window := t.window, plan := t.plan, engine := t.engine, port := t.port, reports := t.reports,
        notices := t.notices, freeCount := s.freeCount + 1 }

/-! #### The re-check queue -/

/-- A request at the tail would find the queue full (R147). -/
def State.QueueIsFull (s : State) (sp : Span) : Prop :=
  s.admissible sp = true ∧ s.queued sp = false ∧ 32 ≤ s.conditions.recheck.length

/-- The queue after a request for a span at its tail (R147): refused, the entry of the span updated in its place, dropped
because the queue is full, or joined at the tail. -/
def AskedAtTail (s : State) (sp : Span) (reason : RecheckReason) (q : List RecheckEntry) : Prop :=
  (s.admissible sp = false ∨ s.QueueIsFull sp → q = s.conditions.recheck) ∧
    (s.admissible sp = true → ∀ before e after, s.conditions.recheck = before ++ e :: after → e.span = sp →
      (∀ x ∈ before, x.span ≠ sp) → q = before ++ { span := sp, reason := reason } :: after) ∧
    (s.admissible sp = true → s.queued sp = false → s.conditions.recheck.length < 32 →
      q = s.conditions.recheck ++ [{ span := sp, reason := reason }])

/-! #### Shots -/

/-- One FIRE for the sweep of context `c` (R65, R66): the word sent, the entry of its tag, the next tag. -/
def State.fired (s : State) (c : SweepContext) (dark : Bool) : State :=
  { s with
    port := { s.port with
      outstanding := s.port.outstanding ++
        [{ tag := s.port.tagCounter, bins := c.settings.binCount, dark := dark, discard := false }]
      tagCounter := s.port.tagCounter + 1 }
    outputs := { s.outputs with fires := s.outputs.fires ++
      [{ tag := s.port.tagCounter, cls := c.cls, binCount := c.settings.binCount, binLength := c.settings.binLength,
         dark := dark }] } }

/-- The admission condition for a FIRE of `n` bins (R67). -/
def State.Admits (s : State) (n : Nat) : Prop :=
  s.port.fifo.length + s.port.expected + n ≤ 32768

/-- The first three conditions of R49. -/
def State.FireIsDue (s : State) (c : SweepContext) : Prop :=
  s.port.outstanding.length < 2 ∧ c.accepted + s.port.outstanding.length < c.settings.shotCount ∧
    s.Admits c.settings.binCount

/-- One test of R49: in FIRING a FIRE that is due leaves while the gate is COOL, and HOT_HOLD is entered while it is HOT
(R52). -/
def TestedOnce (s t : State) (c : SweepContext) : Prop :=
  (s.engine.state ≠ .firing ∨ ¬s.FireIsDue c → t = s) ∧
    (s.engine.state = .firing → s.FireIsDue c → s.port.gate = .cool → t = s.fired c false) ∧
    (s.engine.state = .firing → s.FireIsDue c → s.port.gate = .hot →
      t = { s with engine := { s.engine with state := .hotHold, hotHoldTimer := true } })

/-- The engine has tested its firing conditions (R46, R49): one dark FIRE in DARK_CHECK when no shot is outstanding and the
admission condition holds, up to two FIREs in FIRING, nothing in any other state. -/
def Tested (s t : State) : Prop :=
  (s.context = none ∨ (s.engine.state ≠ .darkCheck ∧ s.engine.state ≠ .firing) → t = s) ∧
    ∀ c, s.context = some c →
      (s.engine.state = .darkCheck → s.port.outstanding = [] → s.Admits c.settings.binCount → t = s.fired c true) ∧
      (s.engine.state = .darkCheck → s.port.outstanding ≠ [] ∨ ¬s.Admits c.settings.binCount → t = s) ∧
      (s.engine.state = .firing → ∃ u, TestedOnce s u c ∧ TestedOnce u t c)

/-- The engine counts a judgement of a shot (R47, R48, R50): a dark one in DARK_CHECK, another in FIRING or HOT_HOLD. -/
def State.Counts (s : State) (dark : Bool) : Prop :=
  (s.engine.state = .darkCheck ∧ dark = true) ∨
    ((s.engine.state = .firing ∨ s.engine.state = .hotHold) ∧ dark = false)

/-- The sweep has ended LIT with the tallies of `c` (R47, R50, R53); the port does what R76 asks. -/
def State.lit (s : State) (c : SweepContext) : State :=
  { s.setContext c with engine := s.engine.decided .lit, port := s.port.discardSweep }

/-- The tallies with one more shot rejected (R47, R48, R50). -/
def SweepContext.rejectedOnce (c : SweepContext) : SweepContext :=
  { c with rejected := if c.rejected < 255 then c.rejected + 1 else c.rejected, consecutiveLost := 0 }

/-- A shot has been judged rejected (R47, R50, R71), `atOnce` when that ends its sweep LIT whatever the tally: the sweep ends
LIT at the reject limit, or goes on with the next FIRE. A judgement that does not count changes nothing (R54). -/
def Rejected (s t : State) (dark : Bool) (atOnce : Prop) : Prop :=
  (s.context = none ∨ ¬s.Counts dark → t = s) ∧
    ∀ c, s.context = some c → s.Counts dark →
      (atOnce ∨ c.settings.rejectLimit ≤ c.rejectedOnce.rejected → t = s.lit c.rejectedOnce) ∧
      (¬atOnce → c.rejectedOnce.rejected < c.settings.rejectLimit → Tested (s.setContext c.rejectedOnce) t)

/-- A shot has been judged accepted (R47, R50), with the mean of its block when it is dark. -/
def Accepted (s t : State) (dark : Bool) (mean : Nat) : Prop :=
  (s.context = none ∨ ¬s.Counts dark → t = s) ∧
    ∀ c, s.context = some c → s.Counts dark →
      let dark' : SweepContext := { c with consecutiveLost := 0 }
      (dark = false → Tested
        (s.setContext
          { c with accepted := if c.accepted < 65536 then c.accepted + 1 else c.accepted, consecutiveLost := 0 }) t) ∧
      (dark = true → mean < c.settings.litLevel →
        Tested { s.setContext dark' with engine := { s.engine with state := .firing } } t) ∧
      (dark = true → c.settings.litLevel ≤ mean → t = s.lit dark')

/-- A header has been taken while no block is open (R68, R73): it opens the block of an outstanding tag, and is stray
otherwise. -/
def Headed (s t : State) (tag : Byte) (bins : Half) : Prop :=
  (∀ x, s.port.shot tag = some x → t =
    { s with port := { s.port with
      intake := .opened { tag := tag, headerBins := bins.toNat, count := 0, overLength := false, darkSum := 0 } } }) ∧
    (s.port.shot tag = none → t =
      { s with port := { s.port with
        intake := .stray, stray := if s.port.stray < 65535 then s.port.stray + 1 else s.port.stray } })

/-! #### Sweeps -/

/-- A sweep that stands in SELECTING has gone on by the table of R43: to DARK_CHECK with its dark FIRE, to SETTLING, to wait
for a request in progress, or with a SELECT of its own. -/
def Selects (s t : State) (c : SweepContext) : Prop :=
  (s.engine.selector = .atPort c.port true → Tested { s with engine := { s.engine with state := .darkCheck } } t) ∧
    (s.engine.selector = .atPort c.port false → t =
      { s with engine := { s.engine with state := .settling, settleTimer := some c.settings.settleTime } }) ∧
    (∀ p, s.engine.selector = .moving p → t = s) ∧
    (s.engine.selector = .unknown ∨ (∃ p settled, s.engine.selector = .atPort p settled ∧ p ≠ c.port) → t =
      { s with
        engine :=
          { s.engine with selector := .moving c.port, selectorTimer := some s.engine.selectorTimeout }
        outputs := { s.outputs with selects := s.outputs.selects ++ [c.port] } })

/-- A sweep has begun in bank `n` (R39, actions 2 to 5), from a state `s` in which its source has been taken: the context
built from the tables as they stand (R36, R37), counted in its cycle (R12), the bank claimed, which ends the summing that
still goes on into it (R76, R81), 9 slots reserved, and SELECTING, which goes on by the selector's table (R43). -/
def Begun (s t : State) (n : BankName) (sp : Span) (reason : SweepReason) (cls : Option PulseClass)
    (as : CountedAs) : Prop :=
  let group := s.group (s.entry sp).group
  let c : SweepContext :=
    { span := sp, reason := reason, countedAs := as, cls := cls.getD group.live.baseClass, port := (s.entry sp).port,
      settings := group.live, generation := (s.slot sp).generation, cycle := s.plan.active.map (·.number),
      retain := decide (s.banks.retainSlot = some sp) && !s.banks.a.retains && !s.banks.b.retains,
      accepted := 0, rejected := 0, lost := 0, consecutiveLost := 0, bank := n }
  let counted (x : CycleRecord) : CycleRecord :=
    match as with
    | .plan => { x with planStarted := if x.planStarted < 65535 then x.planStarted + 1 else x.planStarted }
    | .extra => { x with extraStarted := if x.extraStarted < 65535 then x.extraStarted + 1 else x.extraStarted }
  let port : Port :=
    match s.port.accumulation with
    | head :: rest =>
      if head.bank = n then
        { s.port with accumulation := rest, fifo := s.port.fifo.drop (head.bins - head.summed) }
      else s.port
    | [] => s.port
  Selects
    { s.setBank n
        { state := .filling, sums := [], context := some c, accepted := 0, reanalysis := .idle, hold := .stopped,
          releasePending := false, exporting := none } with
      plan := { s.plan with active := s.plan.active.map counted }
      port := port
      reports := { s.reports with reserved := s.reports.reserved + 9 }
      engine := { s.engine with state := .selecting, bank := some n, outcome := none } }
    t c

/-- The span that lies `j` indexes after `i`, round the plan (R5). -/
def Span.after (i : Span) (j : Nat) : Span :=
  i + Fin.ofNat 192 j

/-- The scan from the cursor comes to the enabled span `k` indexes on before it comes round to the cycle's start (R7). -/
def State.ScanFinds (s : State) (c : CycleRecord) (k : Nat) : Prop :=
  k < 192 ∧ (∀ j, j < k → (s.entry (s.plan.cursor.after j)).enabled = false) ∧
    (∀ j, j ≤ k → s.plan.cursor.after j ≠ c.start ∨ c.planStarted = 0) ∧
    (s.entry (s.plan.cursor.after k)).enabled = true

/-- The scan from the cursor comes round to the cycle's start after a plan sweep, and the next one, from there, to the
enabled span `k` indexes on (R7). -/
def State.ScanWraps (s : State) (c : CycleRecord) (k : Nat) : Prop :=
  k < 192 ∧ 0 < c.planStarted ∧
    (∃ m, m < 192 ∧ s.plan.cursor.after m = c.start ∧
      ∀ j, j < m → (s.entry (s.plan.cursor.after j)).enabled = false ∧ s.plan.cursor.after j ≠ c.start) ∧
    (∀ j, j < k → (s.entry (c.start.after j)).enabled = false) ∧ (s.entry (c.start.after k)).enabled = true

/-- The cycle `c` has ended with reason WRAP and a new one has started at its start index (R5, R10), of which the span `k`
indexes on has been taken (R7). CYCLE_END is put at once when no sweep of the ended cycle is unreported (R13). -/
def Wrapped (s u : State) (c : CycleRecord) (k : Nat) : Prop :=
  let number := if s.plan.lastNumber < 65535 then s.plan.lastNumber + 1 else 1
  let ended : EndingCycle := { cycle := c, reason := .wrap, notReached := 0 }
  u.plan =
      { s.plan with
        cursor := c.start.after (k + 1)
        lastNumber := number
        active := some
          { number := number, start := c.start, planStarted := 0, planEnded := 0, extraStarted := 0, extraEnded := 0 }
        ending := if c.inFlight = 0 then s.plan.ending else s.plan.ending ++ [ended] } ∧
    u.reports = (if c.inFlight = 0 then s.reports.edged ended.record else s.reports) ∧
    NoticesGain s u (if c.inFlight = 0 then [.cycleDone] else []) ∧
    u = { s with plan := u.plan, reports := u.reports, notices := u.notices, engine := u.engine } ∧
    u.engine = { s.engine with state := u.engine.state }

/-- The engine has chosen, and started the sweep of the first source when both start conditions hold (R38, R39): the
on-demand slot, the head of the re-check queue in an OPEN window, the plan's first enabled span from the cursor on. Nothing
is done while a sweep is in flight. -/
def Starts (s t : State) : Prop :=
  let granted := s.reports.occupancy + s.reports.reserved + 11 ≤ 128 ∧ s.reports.backPressure = false
  (s.sweepInFlight = true → t = s) ∧
    (s.sweepInFlight = false → s.freeBankName = none ∨ ¬granted ∨ s.sourceExists = false →
      t = { s with engine := { s.engine with state := if s.sourceExists = true then .waiting else .idle } }) ∧
    ∀ n, s.sweepInFlight = false → s.freeBankName = some n → granted →
      (∀ sp, s.engine.onDemand = some sp →
        Begun { s with engine := { s.engine with onDemand := none } } t n sp .onDemand none .extra) ∧
      (∀ e rest, s.engine.onDemand = none → s.conditions.recheck = e :: rest → s.window.state = .opened →
        let u : State := { s with conditions := { s.conditions with recheck := rest } }
        (e.reason = .confirm → Begun u t n e.span .confirm none .extra) ∧
        (∀ k, e.reason = .escalate k → Begun u t n e.span .escalate (some k) .extra) ∧
        ∀ k, e.reason = .retry k → Begun u t n e.span .retry (some k) .extra) ∧
      ∀ c k, s.engine.onDemand = none → s.conditions.recheck = [] ∨ s.window.state ≠ .opened →
        s.plan.active = some c →
        (s.ScanFinds c k →
          Begun { s with plan := { s.plan with cursor := s.plan.cursor.after (k + 1) } } t n
            (s.plan.cursor.after k) .plan none .plan) ∧
        (s.window.state = .opened → s.ScanWraps c k →
          ∃ u, Wrapped s u c k ∧ Begun u t n (c.start.after k) .plan none .plan)

/-- The bank as it is FREE (R82); its sums, count and release-pending flag stay until a claim (log 17). -/
def Bank.released (b : Bank) : Bank :=
  { b with state := .free, context := none, reanalysis := .idle, hold := .stopped, exporting := none }

/-- The closing actions of the sweep `c` of outcome `o` in bank `n` have been taken (R55): the give-back of R56, the bank
FREE, one SPAN_RESULT and the reservation ended, the end counted in its cycle (R12, R13), a CLOSING window CLOSED with its
edge record (R32), and the choice. The slots are released before CYCLE_END and edge record look for theirs (log 26), the
order of those two is open (log 7), and the model's counter of free values advances. -/
def Closes (s t : State) (n : BankName) (c : SweepContext) (o : EngineOutcome) : Prop :=
  let returned := o ≠ .preempted ∧ (c.reason = .confirm ∨ c.reason = .escalate)
  let reason : RecheckReason := if c.reason = .confirm then .confirm else .escalate c.cls
  let result := Record.spanResult
    { span := c.span, reason := .sweep c.reason, outcome := .engine o, cls := c.cls, accepted := c.accepted,
      rejected := c.rejected, lost := c.lost, measuredEnd := none, findingCount := 0, more := false,
      retained := false, before := (s.condition c.span).state, after := (s.condition c.span).state, cause := none,
      cycle := c.cycle, endTime := s.window.time }
  let edges := if s.window.state = .closing then [s.window.closedEdge] else []
  ∃ (ends : List Record) (full expired : List NoticeKind),
    EndCounted s.plan t.plan c.cycle c.countedAs ends ∧
    (t.reports = (s.reports.worked [result]).edgedAll (ends ++ edges) ∨
      t.reports = (s.reports.worked [result]).edgedAll (edges ++ ends)) ∧
    (returned ∧ s.QueueIsFull c.span → full = [.recheckFull]) ∧ (¬(returned ∧ s.QueueIsFull c.span) → full = []) ∧
    expired = (if (s.bank n).hold = .expired then [.holdExpired] else []) ∧
    NoticesGain s t
      (full ++ expired ++ (if ends = [] then [] else [.cycleDone]) ++ if edges = [] then [] else [.windowEdge]) ∧
    (¬returned → t.conditions = s.conditions) ∧
    (returned → AskedAtTail s c.span reason t.conditions.recheck) ∧
    t.conditions.entries = s.conditions.entries ∧
    t.bank n = (s.bank n).released ∧ t.bank (otherBank n) = s.bank (otherBank n) ∧
    t.banks.retainSlot = s.banks.retainSlot ∧ t.banks.ready = s.banks.ready ∧ t.banks.holdLimit = s.banks.holdLimit ∧
    t.engine =
      { s.engine with state := if t.sourceExists = true then .waiting else .idle, bank := none, outcome := none } ∧
    t.window = (if s.window.state = .closing then { s.window with state := .closed, grace := .stopped } else s.window) ∧
    t =
      { s with
        plan := t.plan, window := t.window, engine := t.engine, banks := t.banks, conditions := t.conditions,
        reports := t.reports, notices := t.notices, freeCount := s.freeCount + 1 }

/-- One minute boundary of a forward step has been evaluated at the time `x` (R25, R27): in SCHEDULE mode with integrity
VALID an open match opens a window that is not OPEN and a close match closes an OPEN one, each with cause STEP. A sweep that
it has cut with no shot outstanding has its closing actions at once (R53). -/
def Replayed (s t : State) (x : TimeOfWeek) : Prop :=
  let now : State := { s with window := { s.window with time := x } }
  let heard := s.window.integrity = .valid ∧ s.window.mode = .schedule
  let opening := heard ∧ now.window.opens = true ∧ s.window.state ≠ .opened
  let shutting := heard ∧ now.window.opens = false ∧ now.window.closes = true ∧ s.window.state = .opened
  (¬opening → ¬shutting → t = now) ∧ (opening → Opens now t .stepped) ∧
    (shutting → ∃ u, Leaves now u .stepped ∧
      (s.engine.state = .draining ∨ u.engine.state ≠ .draining ∨ u.port.outstanding ≠ [] → t = u) ∧
      ∀ n c, s.engine.state ≠ .draining → u.engine.state = .draining → u.port.outstanding = [] →
        u.engine.bank = some n → u.context = some c → Closes u t n c .cut)

/-! #### The link -/

/-- What the dispatcher makes of a frame it takes (R169): the state `d` that the command leaves, the dispatcher's next state,
and the RESPONSE, by the first case of R169 that applies. -/
def Decides (s : State) (f : CommandFrame) (d : State) (next : Dispatcher) (r : Response) : Prop :=
  (∀ c, decodePayload f.payload = .command c → d = (s.perform f.tag c).state ∧ next = dispatcherAfter c ∧
    r = { tag := f.tag, status := (s.perform f.tag c).status, code := c.name.code,
          results := (s.perform f.tag c).results }) ∧
    (decodePayload f.payload = .malformed → d = s ∧ next = .answering ∧
      r = { tag := f.tag, status := .malformed, code := f.payload.headD 0, results := .nothing }) ∧
    (decodePayload f.payload = .unknown → d = s ∧ next = .answering ∧
      r = { tag := f.tag, status := .unknownCommand, code := f.payload.headD 0, results := .nothing })

/-- The frame at the head of the command queue has been taken (R169): it has left the queue, and its RESPONSE stands in the
response buffer. -/
def TakesHead (s t : State) (f : CommandFrame) (rest : List CommandFrame) : Prop :=
  ∃ (d : State) (next : Dispatcher) (r : Response),
    Decides { s with link := { s.link with queue := rest } } f d next r ∧
      t = { d with link := { s.link with queue := rest, dispatcher := next, buffer := some r } }

/-- The discarded-frame count has risen, stopping at 65535 (R167, R168). -/
def State.discarded (s : State) : State :=
  { s with link := { s.link with
    discarded := if s.link.discarded < 65535 then s.link.discarded + 1 else s.link.discarded } }

/-- A checked COMMAND frame has arrived (R168, R169): taken and answered when the dispatcher is READY with no frame before
it, put at the tail of the command queue otherwise, and discarded when 4 frames stand there. -/
def Receives (s t : State) (f : CommandFrame) : Prop :=
  (s.linkFree = true → ∃ (d : State) (next : Dispatcher) (r : Response),
    Decides s f d next r ∧ t = { d with link := t.link } ∧ Answered s t next r) ∧
    (s.linkFree = false → s.link.queue.length < 4 →
      t = { s with link := { s.link with queue := s.link.queue ++ [f] } }) ∧
    (s.linkFree = false → 4 ≤ s.link.queue.length → t = s.discarded)

/-! #### The analyser -/

/-- An IDLE analyser has taken the head of the ready list (R83, R116): the record holds copies of the context, the
accepted-shot count, the profile and the baseline slot, and the mode of the first row of R118 that applies. A BUSY
analyser, an empty list, or a head that is neither FULL nor waiting for a reanalysis (log 19) changes nothing. -/
def TakesReady (s t : State) : Prop :=
  (s.analyser.record.isSome = true ∨ s.banks.ready = [] → t = s) ∧
    ∀ n rest, s.analyser.record = none → s.banks.ready = n :: rest →
      let taken (c : SweepContext) (kind : AnalysisKind) (p : ProfileNo) (b : Bank) : Prop :=
        let slot := s.slot c.span
        t.bank n = b ∧ t.bank (otherBank n) = s.bank (otherBank n) ∧
        t.banks = { s.banks with a := t.banks.a, b := t.banks.b, ready := rest } ∧
        (∃ r, t.analyser = { s.analyser with record := some r } ∧ r.bank = n ∧ r.kind = kind ∧ r.context = c ∧
          r.accepted = (s.bank n).accepted ∧ r.profile = s.profile p ∧ r.snapshot = slot ∧
          (slot.record = none → r.mode = .endOnly ∧ r.launchUsed = 0) ∧
          ∀ b, slot.record = some b →
            let stale := (kind = .sweep ∧ slot.generation ≠ c.generation) ∨ b.binLength ≠ c.settings.binLength
            (stale → r.mode = .endOnly ∧ r.launchUsed = 0) ∧
            (¬stale → b.cls ≠ c.cls → r.mode = .endTest ∧ r.launchUsed = b.launch) ∧
            (¬stale → b.cls = c.cls → r.mode = .full ∧ r.launchUsed = b.launch)) ∧
        t = { s with banks := t.banks, analyser := t.analyser }
      (∀ c, (s.bank n).context = some c → (s.bank n).state = .full →
        taken c .sweep c.settings.profile { s.bank n with state := .analysing }) ∧
      (∀ c p, (s.bank n).context = some c → (s.bank n).state = .held → (s.bank n).reanalysis = .waiting p →
        taken c .reanalysis p { s.bank n with state := .analysing, reanalysis := .running }) ∧
      ((s.bank n).context = none ∨ ((s.bank n).state ≠ .full ∧
        ¬((s.bank n).state = .held ∧ ∃ p, (s.bank n).reanalysis = .waiting p)) → t = s)

/-- What the condition unit makes of a result (R136): the outcome, the findings and the more flag written, the cause, the
entry and the re-check queue it leaves, and the kinds raised. -/
structure Ruling where
  outcome : AnalysisOutcome
  list : FindingList
  cause : Option Cause
  entry : ConditionEntry
  recheck : List RecheckEntry
  kinds : List NoticeKind
  deriving DecidableEq, Repr

/-- The ruling on a list that is judged by the transitions (R139 to R143), over an entry whose last fields are written, with
some kinds raised before. -/
def RulesByTransitions (s : State) (sp : Span) (e : ConditionEntry) (p : Profile) (l : FindingList)
    (raised : List NoticeKind) (x : Ruling) : Prop :=
  let v := e.judge l.findings p.tolerance p.confirm p.clearCount
  let q := s.conditions.recheck
  let left := e.state = .suspect ∧ v.entry.state ≠ .suspect
  x.outcome = .analysed ∧ x.list.more = l.more ∧ x.cause = v.cause ∧ x.entry = v.entry ∧
    (∀ f rest, l.findings = f :: rest → v.leadConfirmed = true →
      x.list.findings = { f with status := .confirmed } :: rest) ∧
    (l.findings = [] ∨ v.leadConfirmed = false → x.list.findings = l.findings) ∧
    (v.askConfirm = true → AskedAtTail s sp .confirm x.recheck) ∧
    (v.askConfirm = false → left → (∃ y ∈ q, y.span = sp ∧ y.reason = .confirm) →
      x.recheck = q.filter fun y => y.span != sp) ∧
    (v.askConfirm = false → ¬(left ∧ ∃ y ∈ q, y.span = sp ∧ y.reason = .confirm) → x.recheck = q) ∧
    ∀ k, k ∈ x.kinds ↔ k ∈ raised ∨ (k = .recheckFull ∧ v.askConfirm = true ∧ s.QueueIsFull sp) ∨
      (k = .faultConfirmed ∧ (v.cause = some .confirmed ∨ v.cause = some .unstable ∨ v.cause = some .changed)) ∨
      (k = .spanRestored ∧ v.cause = some .restored)

/-- The ruling on the result of a sweep's analysis (R110, R136 to R138): a stale result and an END_ONLY result change the last
fields alone; an ESCALATED result asks for ESCALATE at the next class and, when that cannot be queued, is judged with its
fallback list; an ANALYSED result is judged with its list. -/
def Rules (s : State) (r : AnalysisRecord) (found : AnalysisOutcome × FindingList × Option FindingList) (m : Nat)
    (x : Ruling) : Prop :=
  let sp := r.context.span
  let last : ConditionEntry :=
    { s.condition sp with lastOutcome := some found.1, lastEnd := some m, lastCycle := r.context.cycle }
  let current := (s.slot sp).record.isSome = true ∧ (s.slot sp).generation = r.context.generation
  let none_ : FindingList := { findings := [], more := false }
  let refused := s.admissible sp = false ∨ s.QueueIsFull sp
  let plain (o : AnalysisOutcome) (l : FindingList) (q : List RecheckEntry) : Prop :=
    x = { outcome := o, list := l, cause := none, entry := last, recheck := q, kinds := [] }
  (¬current → plain found.1 found.2.1 s.conditions.recheck) ∧
    (current → found.1 = .endOnly → plain .endOnly none_ s.conditions.recheck) ∧
    (current → found.1 = .escalated → ¬refused → ∀ k : PulseClass, k.val = r.context.cls.val + 1 →
      ∃ q, AskedAtTail s sp (.escalate k) q ∧ plain .escalated none_ q) ∧
    (current → found.1 = .escalated → s.admissible sp = false →
      RulesByTransitions s sp last r.profile (found.2.2.getD none_) [] x) ∧
    (current → found.1 = .escalated → s.QueueIsFull sp →
      RulesByTransitions s sp last r.profile (found.2.2.getD none_) [.recheckFull] x) ∧
    (current → found.1 = .analysed → RulesByTransitions s sp last r.profile found.2.1 [] x)

/-! #### The deviation scan -/

/-- The scan of R124 from bin `b` with the running reference `r`: over the bins up to `last`, with the deviation `dev`, the
gate each bin lies in, and the windows that rise (R127), it makes these findings. -/
inductive Scans (dev : Nat → Int) (gate : Nat → Option LandmarkGate) (last : Nat) (p : Profile) :
    Nat → Int → List Finding → Prop
  | done {b : Nat} {r : Int} : last < b → Scans dev gate last p b r []
  | inGate {b : Nat} {r : Int} {g : LandmarkGate} {fs : List Finding} : b ≤ last → gate b = some g → b < g.last →
      Scans dev gate last p (b + 1) r fs → Scans dev gate last p b r fs
  | grown {b : Nat} {r : Int} {g : LandmarkGate} {fs : List Finding} {l index : Nat} : b ≤ last → gate b = some g →
      g.last ≤ b → g.tested = some (l, index) → (p.grown : Int) ≤ dev b - r →
      Scans dev gate last p (b + 1) (dev b) fs →
      Scans dev gate last p b r
        ({ kind := .grown, location := l, excess := min 65535 (dev b - r).toNat, zone := some index, status := .new }
          :: fs)
  | gateEnd {b : Nat} {r : Int} {g : LandmarkGate} {fs : List Finding} : b ≤ last → gate b = some g → g.last ≤ b →
      (g.tested = none ∨ dev b - r < p.grown) → Scans dev gate last p (b + 1) (dev b) fs →
      Scans dev gate last p b r fs
  | bend {b : Nat} {r : Int} {fs : List Finding} : b ≤ last → gate b = none → b + p.persistence ≤ last + 1 →
      (∀ j, j < p.persistence → gate (b + j) = none ∧ (p.bend : Int) ≤ dev (b + j) - r) →
      Scans dev gate last p (b + p.persistence) (dev (b + p.persistence - 1)) fs →
      Scans dev gate last p b r
        ({ kind := .bend, location := b, excess := min 65535 (dev (b + p.persistence - 1) - r).toNat, zone := none,
           status := .new } :: fs)
  | level {b : Nat} {r : Int} {fs : List Finding} : b ≤ last → gate b = none →
      ¬(b + p.persistence ≤ last + 1 ∧
        ∀ j, j < p.persistence → gate (b + j) = none ∧ (p.bend : Int) ≤ dev (b + j) - r) →
      Scans dev gate last p (b + 1) (min r (dev b)) fs → Scans dev gate last p b r fs

/-- The landmarks with their zone's index from 1: the end bins of all zones but the last (R97, R126), and whether each is a
CONNECTOR. -/
def Baseline.landmarks (b : Baseline) : List (Nat × Nat × Bool) :=
  (b.zones.dropLast.zipIdx 1).map fun z => (z.1.endBin, z.2, decide (z.1.kind = .connector))

/-- A bin of the scan range lies in the gate of some landmark (R125): from the tolerance before it to the tolerance after it,
and the blind more after a CONNECTOR. -/
def Gated (b : Baseline) (p : Profile) (lo hi x : Nat) : Prop :=
  lo ≤ x ∧ x ≤ hi ∧ ∃ l ∈ b.landmarks, l.1 ≤ x + p.tolerance ∧
    x ≤ l.1 + p.tolerance + if l.2.2 = true then p.blind else 0

/-- The end bins of the zones rise strictly from above the launch bin (R97, R102). -/
def Baseline.Rising (b : Baseline) : Prop :=
  (b.launch :: b.zones.map (·.endBin)).Pairwise (· < ·)

/-! #### Codes -/

/-- The code of a value: its place, from `first`, in the list of its enumeration (R177). -/
def codeFrom {α : Type} [DecidableEq α] (first : Nat) (values : List α) (x : α) : Byte :=
  BitVec.ofNat 8 (first + values.idxOf x)

end Sys2Proof.Machine
end

