-- ==== Sys2Proof/Certificates/Slice0/Obligations.lean ====
section
/-! DEFINITION. The statements for the provers. A statement about a shelf command speaks of `exec` on the row of the command
when the dispatcher is READY with no frame before it (`State.linkFree`): `Answers` gives the whole next state but for the
link, and the RESPONSE placed. What happens when the dispatcher is not free is stated once, of all of them. -/

open Sys2Proof Sys2Proof.Machine

/-! ### Steps -/

/-- A step takes the command at the front of the queue and runs it on the state with the queue's rest. -/
def Obligations.FrontCommandRuns : Prop :=
  ∀ (c : Instr) (rest : List Instr) (s : State),
    step { s with pending := c :: rest } = exec c { s with pending := rest }

/-- With no command waiting, a step is one REFCLK edge (DESIGN CHOICE, log 4): counted while the reference is PRESENT, a
second event at the 32768th, nothing while it is LOST (R19, R20). -/
def Obligations.EmptyQueueCountsOneEdge : Prop :=
  ∀ s : State, s.pending = [] →
    (s.window.reference = .lost → step s = .next s.grant) ∧
    (s.window.reference = .present → s.window.divider + 1 < 32768 →
      step s = .next ({ s with window := { s.window with divider := s.window.divider + 1 } } : State).grant) ∧
    (s.window.reference = .present → 32768 ≤ s.window.divider + 1 → step s = exec .secondEvent s)

/-- The laws of the part hold in the state after power-on. -/
def Obligations.ResetStateKeepsTheLaws : Prop :=
  State.reset.PoolLaw ∧ State.reset.PortsLaw ∧ State.reset.LiveLaw ∧ State.reset.IntakeLaw ∧ State.reset.RecheckLaw ∧
    State.reset.ConditionLaw ∧ State.reset.FaultedLaw ∧ State.reset.CycleLaw ∧ State.reset.SlotsLaw ∧
    State.reset.SumsLaw ∧ State.reset.QueueLaw

/-- POWER_ON and RESET_INPUT leave every block at its value of power-on (R176 and the reset rule of each block), with the
last reset cause of their name; a frame in transmission is completed, the sums of the banks are not cleared (R94). That
the model's own fields outputs (log 9) and freeCount (log 8) and the queue of commands (log 20) stay, and that POWER_ON too
completes the frame (log 20), is the model's choice. Some of the values themselves are spelled out. -/
def Obligations.HardResetLeavesThePowerOnValues : Prop :=
  (∀ s : State,
    let after (cause : ResetCause) : State :=
      { State.reset with
        banks := { State.reset.banks with
          a := { Bank.initial with sums := s.banks.a.sums }, b := { Bank.initial with sums := s.banks.b.sums } },
        link := { Link.initial with transmitter := s.link.transmitter, lastReset := cause },
        outputs := s.outputs, freeCount := s.freeCount, pending := s.pending }
    exec .powerOn s = .next (after .powerOn) ∧ exec .resetInput s = .next (after .resetInput)) ∧
  (∀ sp : Span, State.reset.entry sp = { enabled := false, port := 0, group := 0 } ∧
    State.reset.slot sp = { record := none, generation := 0 } ∧ (State.reset.condition sp).state = .unknown) ∧
  State.reset.plan.cursor = 0 ∧ State.reset.plan.lastNumber = 0 ∧ State.reset.baselines.poolFree = 2048 ∧
  State.reset.window.integrity = .invalid ∧ State.reset.window.state = .closed ∧ State.reset.window.mode = .schedule ∧
  State.reset.window.graceSetting = 120 ∧ State.reset.engine.selector = .unknown ∧
  State.reset.engine.selectorTimeout = 400 ∧ State.reset.port.hotLimit = 70 ∧ State.reset.port.coolLimit = 60 ∧
  State.reset.banks.holdLimit = 900 ∧ State.reset.reports.pauseMark = 96 ∧ State.reset.reports.resumeMark = 64 ∧
  State.reset.notices.pending = 1 ∧ State.reset.notices.mask = 6 ∧ State.reset.link.discarded = 0

/-! ### The shelf link -/

/-- Every shelf command that the dispatcher is free to take is carried out or refused by the block that owns it and
answered with one RESPONSE that carries its tag, its code, its status and its results (R169). -/
def Obligations.ShelfCommandIsTakenAndAnswered : Prop :=
  ∀ (i : Instr) (tag : Byte) (c : LinkCommand) (s : State), i.asLink = some (tag, c) → s.linkFree = true →
    Answers i s (s.perform tag c).state (s.perform tag c).status (s.perform tag c).results

/-- A command that the dispatcher is not free to take joins the tail of the command queue; when 4 frames stand there it is
discarded, and the discarded-frame count rises, stopping at 65535 (R168). Nothing else changes. -/
def Obligations.CommandWaitsInTheQueueOrIsDiscarded : Prop :=
  ∀ (i : Instr) (f : CommandFrame) (s : State), rowFrame i = some f → s.linkFree = false →
    (s.link.queue.length < 4 →
      exec i s = .next { s with link := { s.link with queue := s.link.queue ++ [f] } }) ∧
    (4 ≤ s.link.queue.length →
      exec i s = .next
        { s with link := { s.link with
            discarded := if s.link.discarded < 65535 then s.link.discarded + 1 else s.link.discarded } })

/-- A frame with an empty payload is answered MALFORMED, and one whose code names no command UNKNOWN_COMMAND (R169, cases 1
and 2); the RESPONSE names the code, 0 for the empty payload (R178), and nothing else changes. -/
def Obligations.UnknownCommandIsAnswered : Prop :=
  ∀ (tag : Byte) (payload : List Byte) (s : State), s.linkFree = true →
    (Instr.unknownCommand tag payload).wellFormed = true →
    ∃ t, exec (.unknownCommand tag payload) s = .next t ∧ t = { s with link := t.link } ∧
      Answered s t .answering
        { tag := tag, status := if payload = [] then .malformed else .unknownCommand, code := payload.headD 0,
          results := .nothing }

/-- The payload of every well-formed shelf command decodes to that command (R169, R178). The frames the part sends have the
bytes of chapter 11: the envelope (R166) with the kind, the tag and the payload of a RESPONSE, a REPORT or an EXPORT frame,
the results, the records of R179 and the layout of R180, in the codes of R177. The codes of states that no table of R177
lists, and the places and widths of results that it gives by its convention alone, are the model's reading (log 14). -/
def Obligations.PayloadsDecodeToTheirCommand : Prop :=
  (∀ (i : Instr) (tag : Byte) (c : LinkCommand), i.asLink = some (tag, c) → i.wellFormed = true →
    decodePayload (encodePayload c) = .command c) ∧
  let one (n : Nat) : Byte := BitVec.ofNat 8 n
  let two (n : Nat) : List Byte := halfBytes (BitVec.ofNat 16 n)
  let four (n : Nat) : List Byte := wordBytes (BitVec.ofNat 32 n)
  let flag (x : Bool) : Byte := if x = true then 1 else 0
  let time (x : TimeOfWeek) : List Byte := [one x.day, one x.hour, one x.minute, one x.second]
  let span (x : Option Span) : Byte := (x.map fun sp => one sp.val).getD 0xFF
  let framed (kind tag : Byte) (payload : List Byte) : List Byte :=
    [0xC3, 0x3C, kind, tag] ++ two payload.length ++ payload ++
      halfBytes (frameCrc kind tag (BitVec.ofNat 16 payload.length) payload)
  let condition (x : Condition) : Byte := codeFrom 0 [.unknown, .clear, .suspect, .faulted] x
  let outcome (x : AnalysisOutcome) : Byte := codeFrom 0 [.analysed, .endOnly, .escalated] x
  let findingKind (x : FindingKind) : Byte := codeFrom 0 [.fibreBreak, .bend, .grown, .unreached] x
  let edgeCause (x : EdgeCause) : Byte := codeFrom 0 [.matched, .forced, .clockLost, .stepped] x
  let integrity (x : Integrity) : Byte := codeFrom 0 [.invalid, .valid] x
  let mode (x : WindowMode) : Byte := codeFrom 0 [.schedule, .forcedOpen, .forcedClosed] x
  let group (g : GroupSettings) : List Byte := ((List.range 9).map fun k => four (g.field k)).flatten
  let zone (z : Zone) : List Byte :=
    two z.endBin ++ two z.startLevel ++ two z.endLevel ++ [codeFrom 0 [.splice, .connector, .fibreEnd] z.kind]
  let bank (b : BankReport) : List Byte :=
    [codeFrom 0 [.free, .filling, .full, .analysing, .held, .exporting] b.state,
      (match b.reanalysis with | .idle => 0 | .waiting _ => 1 | .running => 2), flag b.releasePending]
  (∀ (r : Response) (q : Byte) (l : List Record) (f : ExportFrame),
    (OutFrame.response r).bytes = framed 2 r.tag
      (codeFrom 0 [.ok, .accepted, .busy, .range, .noSpace, .conflict, .notFound, .unknownCommand, .malformed,
        .clockInvalid] r.status :: r.code :: r.results.bytes) ∧
    (OutFrame.report q l).bytes = framed 3 q (one l.length :: (l.map Record.bytes).flatten) ∧
    (OutFrame.exported f).bytes = framed 4 f.tag
      ([one f.span.val, codeFrom 0 [.a, .b] f.bank] ++ two f.index ++ two f.firstBin ++ two f.levels.length ++
        [flag f.last, flag f.cancelled] ++ (f.levels.map two).flatten)) ∧
  (∀ x : SpanResult, (Record.spanResult x).bytes =
    [1, one x.span.val,
      (match x.reason with
        | .sweep r => codeFrom 0 [.plan, .confirm, .escalate, .retry, .onDemand] r
        | .reanalysis => 5),
      (match x.outcome with
        | .analysis o => outcome o
        | .engine o => codeFrom 3 [.lit, .noPort, .mute, .hot, .cut, .preempted] o),
      one x.cls.val] ++ four x.accepted ++ [one x.rejected] ++ two x.lost ++ two (x.measuredEnd.getD 0xFFFF) ++
      [one x.findingCount, flag x.more, flag x.retained, condition x.before, condition x.after,
        (x.cause.map fun y =>
          codeFrom 0 [.firstClear, .suspected, .confirmed, .transient, .unstable, .changed, .restored] y).getD 0xFF] ++
      two (x.cycle.getD 0) ++ time x.endTime) ∧
  (∀ (sp : Span) (k : Nat) (f : Finding), (Record.finding sp k f).bytes =
    [2, one sp.val, one k, findingKind f.kind] ++ two f.location ++ two f.excess ++
      [one (f.zone.getD 0), codeFrom 0 [.new, .confirmed] f.status]) ∧
  (∀ (n : Nat) (start : Span) (reason : CycleReason) (plan extra missed : Nat),
    (Record.cycleEnd n start reason plan extra missed).bytes =
      3 :: (two n ++ [one start.val, codeFrom 0 [.wrap, .close] reason] ++ two plan ++ two extra ++ [one missed])) ∧
  (∀ (e : Edge) (x : EdgeCause) (at_ : TimeOfWeek) (v : Integrity), (Record.windowEdge e x at_ v).bytes =
    [4, codeFrom 0 [.opened, .closed] e, edgeCause x] ++ time at_ ++ [integrity v]) ∧
  (Results.nothing.bytes = [] ∧
    (∀ (e : PlanEntry) (cursor : Span) (cycle : Option Nat), (Results.plan e cursor cycle).bytes =
      [flag e.enabled, one e.port.val, one e.group.val, one cursor.val] ++ two (cycle.getD 0)) ∧
    (∀ g : Group, (Results.group g).bytes = group g.live ++ group g.pending ++ [flag g.staged]) ∧
    (∀ p : Profile, (Results.profile p).bytes =
      two p.floor ++ [one p.persistence, one p.stepGap] ++ two p.bend ++ two p.grown ++ two p.breakDrop ++
        [one p.tolerance, one p.blind, flag p.confirm, one p.clearCount]) ∧
    (∀ (g : Byte) (n : Nat), (Results.baseline { record := none, generation := g } n).bytes = [0, g] ++ two n) ∧
    (∀ (b : Baseline) (g : Byte) (n : Nat), (Results.baseline { record := some b, generation := g } n).bytes =
      [1, g] ++ two n ++ [one b.cls.val, one b.binLength] ++ two b.launch ++ two b.endBin ++ [one b.zones.length] ++
        (b.zones.map zone).flatten) ∧
    (∀ (l : List Record) (n : Nat), (Results.drained l n).bytes =
      [one l.length, one n] ++ (l.map Record.bytes).flatten) ∧
    (∀ pending mask : BitVec 13, (Results.notices pending mask).bytes =
        halfBytes (pending.setWidth 16) ++ halfBytes (mask.setWidth 16) ∧
      (Results.noticeSet mask).bytes = halfBytes (mask.setWidth 16))) ∧
  (∀ x : ClockReport, (Results.clock x).bytes =
    time x.time ++ [integrity x.integrity, codeFrom 0 [.present, .lost] x.reference, x.schedule.dayMask.setWidth 8,
      one x.schedule.openHour, one x.schedule.openMinute, one x.schedule.closeHour, one x.schedule.closeMinute,
      mode x.mode, codeFrom 0 [.closed, .opened, .closing] x.state] ++
      (match x.grace with
        | .notClosing => [0xFF, 0xFF, 0xFF]
        | .remaining cause n => (cause.map edgeCause).getD 0xFF :: two n
        | .expired cause => (cause.map edgeCause).getD 0xFF :: two 0xFFFE)) ∧
  (∀ (e : ConditionEntry) (place : Option (Nat × RecheckReason)) (n : Nat), (Results.condition e place n).bytes =
    condition e.state ::
      ((match e.lead with
        | some l => findingKind l.kind :: (two l.location ++ two l.excess)
        | none => [0xFF, 0, 0, 0, 0]) ++
      [one e.attempts, one e.streak, (e.lastOutcome.map outcome).getD 0xFF] ++ two (e.lastEnd.getD 0xFFFF) ++
      two (e.lastCycle.getD 0) ++
      (match place with
        | none => [0, 0xFF, 0xFF]
        | some (k, .confirm) => [one k, 1, 0xFF]
        | some (k, .escalate cls) => [one k, 2, one cls.val]
        | some (k, .retry cls) => [one k, 3, one cls.val]) ++ [one n])) ∧
  (∀ x : Settings, (Results.settings x).bytes =
    ((List.range 8).map fun k => halfBytes (BitVec.ofInt 16 (x.value k))).flatten) ∧
  ∀ x : StatusReport, (Results.status x).bytes =
    [codeFrom 0 [.idle, .waiting, .selecting, .settling, .darkCheck, .firing, .hotHold, .draining] x.engine,
      span x.sweepSpan, codeFrom 0 [.closed, .opened, .closing] x.window, mode x.mode, integrity x.integrity] ++
      bank x.bankA ++ bank x.bankB ++ two x.intakeOccupancy ++
      [one x.reportOccupancy, one x.reserved, (if x.backPressure = true then 0 else 1), one x.recheckLength,
        span x.onDemand, span x.retainSlot] ++
      (match x.selector with
        | .unknown => [0, 0xFF, 0]
        | .moving p => [1, one p.val, 0]
        | .atPort p settled => [2, one p.val, flag settled]) ++
      [codeFrom 0 [.cool, .hot] x.gate] ++ halfBytes (x.pending.setWidth 16) ++
      [codeFrom 0 [.powerOn, .resetInput, .fullReset, .restart] x.lastReset] ++ two x.stray ++ two x.omitted ++
      two x.discarded

/-- The bytes of a shelf command's frame, received whole from SEEK, act as the command's row (R166, R167, R169, R178), and
COMMAND_FRAME completes: the command is taken and answered when the dispatcher is READY with no frame before it, and joins
the command queue, or is discarded, otherwise (R168). That a frame's bytes may come as one COMMAND_FRAME is log 3. -/
def Obligations.FrameBytesActAsTheirCommand : Prop :=
  ∀ (i : Instr) (tag : Byte) (c : LinkCommand) (s : State), i.asLink = some (tag, c) → i.wellFormed = true →
    s.link.framer = .seek →
    let frame := Instr.commandFrame (envelope 1 tag (encodePayload c))
    exec frame s = exec i s ∧
    (s.linkFree = true → ∃ t, exec frame s = .next t ∧ t = { (s.perform tag c).state with link := t.link } ∧
      Answered s t (dispatcherAfter c)
        { tag := tag, status := (s.perform tag c).status, code := c.name.code, results := (s.perform tag c).results }) ∧
    (s.linkFree = false → s.link.queue.length < 4 → exec frame s = .next
      { s with link := { s.link with queue := s.link.queue ++ [{ tag := tag, payload := encodePayload c }] } }) ∧
    (s.linkFree = false → 4 ≤ s.link.queue.length → exec frame s = .next s.discarded)

/-- A frame of kind COMMAND whose two CRC bytes differ from the CRC of its bytes is discarded: the discarded-frame count
rises, stopping at 65535, and nothing else changes (R166, R167). COMMAND_FRAME takes its bytes one by one (log 3) and always
completes; each byte is taken by the framer state that stands (R166): a kind other than COMMAND and a length above 1024 are
discarded at the second length byte (R167), and the second CRC byte checks the frame. -/
def Obligations.FrameWithWrongCrcIsDiscarded : Prop :=
  (∀ (tag : Byte) (payload : List Byte) (crc : Half) (s : State), s.link.framer = .seek → payload.length ≤ 1024 →
    crc ≠ frameCrc 1 tag (BitVec.ofNat 16 payload.length) payload →
    exec (.commandFrame ([0xC3, 0x3C, 1, tag] ++ halfBytes (BitVec.ofNat 16 payload.length) ++ payload ++
        halfBytes crc)) s =
      .next { s with link := { s.link with
        discarded := if s.link.discarded < 65535 then s.link.discarded + 1 else s.link.discarded } }) ∧
  (∀ (bytes : List Byte) (s : State), ∃ t, exec (.commandFrame bytes) s = .next t) ∧
  (∀ s : State, exec (.commandFrame []) s = .next s) ∧
  (∀ (b : Byte) (bytes : List Byte) (s : State), ∃ u, exec (.commandFrame [b]) s = .next u ∧
    exec (.commandFrame (b :: bytes)) s = exec (.commandFrame bytes) u) ∧
  ∀ (b : Byte) (s : State),
    let framer (x : Framer) : State := { s with link := { s.link with framer := x } }
    (s.link.framer = .seek → exec (.commandFrame [b]) s = .next (if b = 0xC3 then framer .syncSeen else s)) ∧
    (s.link.framer = .syncSeen → exec (.commandFrame [b]) s =
      .next (if b = 0x3C then framer (.header []) else if b = 0xC3 then s else framer .seek)) ∧
    (∀ kept, s.link.framer = .header kept → kept.length < 3 →
      exec (.commandFrame [b]) s = .next (framer (.header (kept ++ [b])))) ∧
    (∀ kind tag high, s.link.framer = .header [kind, tag, high] →
      let length := halfOf high b
      (kind ≠ 1 ∨ 1024 < length.toNat → exec (.commandFrame [b]) s = .next (framer .seek).discarded) ∧
      (kind = 1 → length.toNat = 0 →
        exec (.commandFrame [b]) s = .next (framer (.check kind tag length [] none))) ∧
      (kind = 1 → 1 ≤ length.toNat → length.toNat ≤ 1024 →
        exec (.commandFrame [b]) s = .next (framer (.payload kind tag length [])))) ∧
    (∀ kind tag length kept, s.link.framer = .payload kind tag length kept → exec (.commandFrame [b]) s =
      .next (framer
        (if kept.length + 1 < length.toNat then .payload kind tag length (kept ++ [b])
         else .check kind tag length (kept ++ [b]) none))) ∧
    (∀ kind tag length kept, s.link.framer = .check kind tag length kept none →
      exec (.commandFrame [b]) s = .next (framer (.check kind tag length kept (some b)))) ∧
    ∀ kind tag length kept high, s.link.framer = .check kind tag length kept (some high) →
      (halfOf high b ≠ frameCrc kind tag length kept →
        exec (.commandFrame [b]) s = .next (framer .seek).discarded) ∧
      (halfOf high b = frameCrc kind tag length kept → ∃ t, exec (.commandFrame [b]) s = .next t ∧
        Receives (framer .seek) t { tag := tag, payload := kept })

/-! ### Plan and groups -/

/-- PLAN_WRITE (R2, R3): RANGE, then CONFLICT when another enabled entry names the port; otherwise the whole entry is
written, a disable takes the span out of the re-check queue, an enable in an OPEN window with no ACTIVE cycle starts a
cycle at the cursor (R10), the engine chooses, and nothing else changes. -/
def Obligations.PlanWriteWritesTheEntry : Prop :=
  ∀ (tag span enabled port group : Byte) (s : State), s.linkFree = true →
    let i := Instr.planWrite tag span enabled port group
    (192 ≤ span.toNat ∨ 240 ≤ port.toNat ∨ 8 ≤ group.toNat ∨ 2 ≤ enabled.toNat → Refuses i s .range) ∧
    ∀ (sp : Span) (p : SelPort) (g : GroupNo), sp.val = span.toNat → p.val = port.toNat → g.val = group.toNat →
      enabled.toNat ≤ 1 →
      let conflict := enabled = 1 ∧ ∃ j : Span, j ≠ sp ∧ (s.entry j).enabled = true ∧ (s.entry j).port = p
      let starts := enabled = 1 ∧ (s.entry sp).enabled = false ∧ s.window.state = .opened ∧ s.plan.active = none
      let written : Plan :=
        { s.plan with entries := tableSet s.plan.entries sp { enabled := enabled == 1, port := p, group := g } }
      let number := if s.plan.lastNumber < 65535 then s.plan.lastNumber + 1 else 1
      (conflict → Refuses i s .conflict) ∧
      (¬conflict → AnswersWith i s .ok .nothing fun t =>
        (starts → t.plan =
          { written with
            lastNumber := number
            active := some
              { number := number, start := s.plan.cursor, planStarted := 0, planEnded := 0, extraStarted := 0,
                extraEnded := 0 } }) ∧
        (¬starts → t.plan = written) ∧
        t.conditions =
          { s.conditions with
            recheck := if enabled = 1 then s.conditions.recheck
              else s.conditions.recheck.filter fun e => e.span != sp } ∧
        Chosen s t ∧ t = { s with plan := t.plan, conditions := t.conditions, engine := t.engine, link := t.link })

/-- PLAN_SEEK (R6). -/
def Obligations.PlanSeekSetsTheCursorWhileClosed : Prop :=
  ∀ (tag index : Byte) (s : State), s.linkFree = true →
    (192 ≤ index.toNat → Refuses (.planSeek tag index) s .range) ∧
    ∀ x : Span, x.val = index.toNat →
      (s.window.state = .opened ∨ s.window.state = .closing → Refuses (.planSeek tag index) s .busy) ∧
      (s.window.state = .closed →
        Answers (.planSeek tag index) s { s with plan := { s.plan with cursor := x } } .ok .nothing)

/-- GROUP_STAGE (R16): checked whole; then each field named takes the value of the last pair that names it, in the pending
set of the group alone, and the staged mark becomes yes. -/
def Obligations.GroupStageWritesThePendingSet : Prop :=
  ∀ (tag group : Byte) (pairs : List (Byte × Word)) (s : State), s.linkFree = true →
    let i := Instr.groupStage tag group pairs
    let values := pairs.map fun p => (p.1.toNat, p.2.toNat)
    let good := 1 ≤ pairs.length ∧ pairs.length ≤ 9 ∧ ∀ v ∈ values, InRange (stageRange v.1) v.2
    (8 ≤ group.toNat ∨ ¬good → Refuses i s .range) ∧
    ∀ g : GroupNo, g.val = group.toNat → good → AnswersWith i s .ok .nothing fun t =>
      (∀ k, k < 9 → (t.group g).pending.field k = lastOf k ((s.group g).pending.field k) values) ∧
      (t.group g).live = (s.group g).live ∧ (t.group g).staged = true ∧ (∀ j, j ≠ g → t.group j = s.group j) ∧
      t = { s with plan := { s.plan with groups := t.plan.groups }, link := t.link }

/-- GROUP_COMMIT (R17): refused whole with RANGE, or the pending set of each named group copied into its live set. -/
def Obligations.GroupCommitCopiesThePendingSets : Prop :=
  ∀ (tag : Byte) (groups : List Byte) (s : State), s.linkFree = true →
    let i := Instr.groupCommit tag groups
    let named (g : GroupNo) : Prop := ∃ b ∈ groups, b.toNat = g.val
    let good := 1 ≤ groups.length ∧ groups.length ≤ 8 ∧ (∀ b ∈ groups, b.toNat ≤ 7) ∧
      ∀ g, named g → (s.group g).pending.baseClass ≤ (s.group g).pending.maxClass
    (¬good → Refuses i s .range) ∧
    (good → AnswersWith i s .ok .nothing fun t =>
      (∀ g, named g → t.group g = { s.group g with live := (s.group g).pending, staged := false }) ∧
      (∀ g, ¬named g → t.group g = s.group g) ∧
      t = { s with plan := { s.plan with groups := t.plan.groups }, link := t.link })

/-! ### Clock and window -/

/-- CLOCK_SET (R22): RANGE, then BUSY without the reference; otherwise the time, the divider 0 and integrity VALID, and no
match is evaluated. WINDOW_SET (R26): RANGE, or the whole schedule. -/
def Obligations.ClockSetAndWindowSetWrite : Prop :=
  (∀ (tag day hour minute second : Byte) (s : State), s.linkFree = true →
    let i := Instr.clockSet tag day hour minute second
    (7 ≤ day.toNat ∨ 24 ≤ hour.toNat ∨ 60 ≤ minute.toNat ∨ 60 ≤ second.toNat → Refuses i s .range) ∧
    ∀ x : TimeOfWeek, x.day.val = day.toNat → x.hour.val = hour.toNat → x.minute.val = minute.toNat →
      x.second.val = second.toNat →
      (s.window.reference = .lost → Refuses i s .busy) ∧
      (s.window.reference = .present →
        Answers i s { s with window := { s.window with time := x, divider := 0, integrity := .valid } } .ok
          .nothing)) ∧
  (∀ (tag mask openHour openMinute closeHour closeMinute : Byte) (s : State), s.linkFree = true →
    let i := Instr.windowSet tag mask openHour openMinute closeHour closeMinute
    let good := openHour.toNat ≤ 23 ∧ openMinute.toNat ≤ 59 ∧ closeHour.toNat ≤ 23 ∧ closeMinute.toNat ≤ 59 ∧
      mask.toNat < 128 ∧ ¬(openHour = closeHour ∧ openMinute = closeMinute)
    (¬good → Refuses i s .range) ∧
    ∀ x : Schedule, good → x.dayMask = mask.setWidth 7 → x.openHour.val = openHour.toNat →
      x.openMinute.val = openMinute.toNat → x.closeHour.val = closeHour.toNat → x.closeMinute.val = closeMinute.toNat →
      Answers i s { s with window := { s.window with schedule := x } } .ok .nothing)

/-- CLOCK_STEP (R24, R25): RANGE, then CLOCK_INVALID; otherwise the step is added round the week. A step back, a step in a
forced mode, and a step over no match change the time alone; a replay reaches neither the divider, the schedule nor the
tables. A forward step evaluates each minute boundary after the old time up to the new one, in time order, each with its
full effect at the boundary's own time: cause STEP in its edge records, and the closing actions at once of a sweep that it
cuts with no shot outstanding (R53; an outcome decided before the command waits for its own row, log 1). That the
SPAN_RESULT of such a sweep has the boundary's time as its end time is log 27, that its slots are released before CYCLE_END
and edge record look for theirs log 26, the freed bank's kept flag and count log 17, and the open order of CYCLE_END and
edge record, with the counter that it advances, log 7: the model's choices. -/
def Obligations.ClockStepMovesTheTime : Prop :=
  ∀ (tag : Byte) (seconds : Half) (s : State), s.linkFree = true →
    let i := Instr.clockStep tag seconds
    let old := s.window.time.seconds
    let step := seconds.toInt
    let bounded := -3600 ≤ step ∧ step ≤ 3600
    let quiet := step ≤ 0 ∨ s.window.mode ≠ .schedule ∨
      ∀ m : Nat, old < 60 * m → (60 * m : Int) ≤ old + step →
        ({ s.window with time := .ofSeconds (60 * m) } : Window).opens = false ∧
        ({ s.window with time := .ofSeconds (60 * m) } : Window).closes = false
    (¬bounded → Refuses i s .range) ∧
    (bounded → s.window.integrity = .invalid → Refuses i s .clockInvalid) ∧
    (bounded → s.window.integrity = .valid → AnswersWith i s .ok .nothing fun t =>
      (t.window.time.seconds : Int) = (old + step) % 604800 ∧
      (quiet → t = { s with window := { s.window with time := t.window.time }, link := t.link }) ∧
      (0 ≤ step → ∃ at_ : Nat → State, at_ 0 = s ∧
        (∀ j, 60 * (old / 60 + 1 + j) ≤ old + step.toNat →
          Replayed (at_ j) (at_ (j + 1)) (.ofSeconds (60 * (old / 60 + 1 + j)))) ∧
        let last := at_ ((old + step.toNat) / 60 - old / 60)
        t = { last with window := { last.window with time := t.window.time }, link := t.link }) ∧
      t.window =
        { s.window with
          time := t.window.time, state := t.window.state, grace := t.window.grace, closeCause := t.window.closeCause } ∧
      t.plan =
        { s.plan with active := t.plan.active, ending := t.plan.ending, lastNumber := t.plan.lastNumber } ∧
      t.conditions.entries = s.conditions.entries ∧
      t =
        { s with
          window := t.window, plan := t.plan, engine := t.engine, port := t.port, banks := t.banks,
          conditions := t.conditions, reports := t.reports, notices := t.notices, freeCount := t.freeCount,
          link := t.link })

/-- CLOCK_READ (R23): everything from one instant. While CLOSING with the timer running the seconds of grace remaining are
a free value of the model, at most the timer's length (log 6), and the model's counter of free values advances. -/
def Obligations.ClockReadAnswersTheClock : Prop :=
  ∀ (tag : Byte) (s : State), s.linkFree = true →
    ∃ g : GraceReport,
      (s.window.state ≠ .closing → g = .notClosing) ∧
      (s.window.state = .closing → ∀ length, s.window.grace = .running length →
        ∃ n, n ≤ length ∧ g = .remaining s.window.closeCause n) ∧
      (s.window.state = .closing → s.window.grace = .expired → g = .expired s.window.closeCause) ∧
      Answers (.clockRead tag) s { s with freeCount := s.freeCount + 1 } .ok
        (.clock
          { time := s.window.time, integrity := s.window.integrity, reference := s.window.reference,
            schedule := s.window.schedule, mode := s.window.mode, state := s.window.state, grace := g })

/-- WINDOW_MODE SCHEDULE and FORCED_OPEN, and a mode above 2 (R28, R29): from CLOSED the window opens with an edge record of
cause FORCE in a free slot, or counted as omitted, and with WINDOW_EDGE raised (R33, R154); from CLOSING it opens without
one; a cycle starts at the cursor when an entry is enabled (R10). An OPEN window stays OPEN. -/
def Obligations.WindowModeOpensTheWindow : Prop :=
  ∀ (tag mode : Byte) (s : State), s.linkFree = true →
    let i := Instr.windowMode tag mode
    let forced : State := { s with window := { s.window with mode := .forcedOpen } }
    (3 ≤ mode.toNat → Refuses i s .range) ∧
    (mode = 0 → Answers i s { s with window := { s.window with mode := .schedule } } .ok .nothing) ∧
    (mode = 1 → s.window.state = .opened → Answers i s forced .ok .nothing) ∧
    (mode = 1 → s.window.state ≠ .opened → ∃ u, Opens forced u .forced ∧ Answers i s u .ok .nothing)

/-- WINDOW_MODE FORCED_CLOSED (R28, R30, R31): an OPEN window ends its cycle with reason CLOSE (R11), with its CYCLE_END at once
when no sweep of it is unreported (R13), and becomes CLOSED with an edge record of cause FORCE, or, with a sweep in flight,
CLOSING with the grace timer at the setting, expired at once at 0, which cuts the sweep (R61). The order of CYCLE_END and
the edge record is open (R30; log 7), and a cut sweep stands in DRAINING until CLOSING_ACTIONS (log 1): the model's choices.
Any other window state stays. -/
def Obligations.WindowModeClosesTheWindow : Prop :=
  ∀ (tag : Byte) (s : State), s.linkFree = true →
    let i := Instr.windowMode tag 2
    let forced : State := { s with window := { s.window with mode := .forcedClosed } }
    (s.window.state ≠ .opened → Answers i s forced .ok .nothing) ∧
    (s.window.state = .opened → ∃ u, Leaves forced u .forced ∧ Answers i s u .ok .nothing)

/-- SECOND_EVENT (R19, R27), REFERENCE_LOST and REFERENCE_PRESENT (R20): the time advances round the week; away from a
minute boundary, or without a match to evaluate, nothing else changes; an open match opens a window that is not OPEN, with
its edge record from CLOSED and its cycle, and a close match closes an OPEN one, both with cause MATCH. A loss makes the
integrity INVALID and raises CLOCK_LOST, and closes an OPEN window in SCHEDULE mode alone, with cause CLOCK_LOST. That
SECOND_EVENT does nothing while LOST and sets the divider to 0 whatever it held, and that REFERENCE_PRESENT does not count
its edge, is log 4, the open order of CYCLE_END and edge record, with the counter that it advances, log 7, that a sweep cut
at a grace of 0 stands in DRAINING until CLOSING_ACTIONS log 1, and that each event ends with the arbiter's grant log 10: the
model's choices. -/
def Obligations.ClockEventsMoveTheClock : Prop :=
  ∀ s : State,
    let ticked : State := { s with window := { s.window with time := s.window.time.next, divider := 0 } }
    let lost : State :=
      { s with
        window := { s.window with reference := .lost, integrity := .invalid }, notices := s.notices.raised .clockLost }
    let boundary := s.window.reference = .present ∧ s.window.time.next.second = 0 ∧ s.window.integrity = .valid ∧
      s.window.mode = .schedule
    ((s.window.time.next.seconds = (s.window.time.seconds + 1) % 604800) ∧
      (s.window.reference = .lost → exec .secondEvent s = .next s.grant) ∧
      (s.window.reference = .present →
        s.window.time.next.second ≠ 0 ∨ s.window.integrity = .invalid ∨ s.window.mode ≠ .schedule ∨
          (ticked.window.opens = false ∧ ticked.window.closes = false) →
        exec .secondEvent s = .next ticked.grant) ∧
      (boundary → ticked.window.opens = true → s.window.state = .opened → exec .secondEvent s = .next ticked.grant) ∧
      (boundary → ticked.window.opens = true → s.window.state ≠ .opened →
        ∃ t : State, exec .secondEvent s = .next t.grant ∧ Opens ticked t .matched) ∧
      (boundary → ticked.window.opens = false → ticked.window.closes = true → s.window.state = .opened →
        ∃ t : State, exec .secondEvent s = .next t.grant ∧ Leaves ticked t .matched) ∧
      (boundary → ticked.window.opens = false → s.window.state ≠ .opened →
        exec .secondEvent s = .next ticked.grant)) ∧
    ((s.window.reference = .lost → exec .referenceLost s = .next s.grant) ∧
      (s.window.reference = .present → s.window.mode ≠ .schedule ∨ s.window.state ≠ .opened →
        exec .referenceLost s = .next lost.grant) ∧
      (s.window.reference = .present → s.window.mode = .schedule → s.window.state = .opened →
        ∃ t : State, exec .referenceLost s = .next t.grant ∧ Leaves lost t .clockLost)) ∧
    exec .referencePresent s = .next { s with window := { s.window with reference := .present } }

/-- GRACE_TIMER_EXPIRY (R31, R61): in CLOSING with the timer running, a sweep in flight that can be cut is cut, another
runs on, and without one the window becomes CLOSED with its edge record. The port at a decided outcome (R76): every
outstanding shot is marked for discard, the blocks behind the head leave the accumulation list with their samples, and the
head goes on uncounted, or leaves when it is summed to its end (log 23). That an expiry of a timer that does not run changes
nothing is log 11, the edge record of a window without a recorded cause log 19, and that a cut sweep stands in DRAINING
until CLOSING_ACTIONS log 1: the model's choices. -/
def Obligations.GraceExpiryCutsOrCloses : Prop :=
  (∀ s : State,
    ((s.window.state ≠ .closing ∨ ∀ n, s.window.grace ≠ .running n) → exec .graceTimerExpiry s = .next s.grant) ∧
    ∀ n, s.window.state = .closing → s.window.grace = .running n →
      let expired : Window := { s.window with grace := .expired }
      (∀ c, s.sweepInFlight = true → s.context = some c → s.stoppable c = true →
        exec .graceTimerExpiry s = .next
          ({ s with window := expired, engine := s.engine.decided .cut, port := s.port.discardSweep } : State).grant) ∧
      (∀ c, s.sweepInFlight = true → s.context = some c → s.stoppable c = false →
        exec .graceTimerExpiry s = .next ({ s with window := expired } : State).grant) ∧
      (s.sweepInFlight = false → ∃ t : State, exec .graceTimerExpiry s = .next t.grant ∧
        t.window = { s.window with state := .closed, grace := .stopped } ∧
        t.reports = s.reports.edged
          (.windowEdge .closed (s.window.closeCause.getD .matched) s.window.time s.window.integrity) ∧
        NoticesGain s t [.windowEdge] ∧
        t = { s with window := t.window, reports := t.reports, notices := t.notices })) ∧
  ∀ p : Port,
    let marked := p.outstanding.map fun x => { x with discard := true }
    (p.accumulation = [] → p.discardSweep = { p with outstanding := marked }) ∧
    ∀ head rest, p.accumulation = head :: rest →
      let left := head.bins - head.summed
      p.discardSweep =
        { p with
          outstanding := marked
          accumulation := if left = 0 then [] else [{ head with counted := false }]
          fifo := p.fifo.take left ++ p.fifo.drop (left + (rest.map (·.bins)).sum) }

/-! ### On-demand tests -/

/-- TEST_NOW while no sweep can be ended or converted (R57, R58): the refusals in their order; IDLE, WAITING and DRAINING
fill the on-demand slot, and so does a FIRING sweep of another span whose accepted tally has reached the shot count. -/
def Obligations.TestNowFillsTheSlot : Prop :=
  ∀ (tag span retain : Byte) (s : State), s.linkFree = true →
    let i := Instr.testNow tag span retain
    let held := s.heldOrExporting = true ∨ s.banks.retainSlot.isSome = true
    (192 ≤ span.toNat ∨ 2 ≤ retain.toNat → Refuses i s .range) ∧
    ∀ sp : Span, sp.val = span.toNat → retain.toNat ≤ 1 →
      ((s.entry sp).enabled = false → Refuses i s .notFound) ∧
      ((s.entry sp).enabled = true → s.engine.onDemand.isSome = true ∨ (retain = 1 ∧ held) → Refuses i s .busy) ∧
      ((s.entry sp).enabled = true → s.engine.onDemand = none → ¬(retain = 1 ∧ held) →
        let banks : Banks := if retain = 1 then { s.banks with retainSlot := some sp } else s.banks
        let filled : Engine := { s.engine with onDemand := some sp }
        (s.engine.state = .idle ∨ s.engine.state = .waiting →
          Answers i s { s with banks := banks, engine := { filled with state := .waiting } } .ok .nothing) ∧
        (s.engine.state = .draining → Answers i s { s with banks := banks, engine := filled } .ok .nothing) ∧
        (∀ c, s.engine.state = .firing → s.context = some c → c.span ≠ sp → c.settings.shotCount ≤ c.accepted →
          Answers i s { s with banks := banks, engine := filled } .ok .nothing))

/-- TEST_NOW while a sweep can be ended or converted (R58 to R60): a sweep of the same span becomes the on-demand sweep; a
sweep of another span is pre-empted, and RETRY of its span at the class used is asked for at the head of the re-check
queue, under the rules of the queue (R147, R148). That a pre-empted sweep with no shot outstanding stands in DRAINING
until CLOSING_ACTIONS is the model's choice (log 1); what the port does is spelled out at GRACE_TIMER_EXPIRY. -/
def Obligations.TestNowConvertsOrPreempts : Prop :=
  ∀ (tag span retain : Byte) (s : State) (sp : Span) (c : SweepContext), s.linkFree = true → sp.val = span.toNat →
    retain.toNat ≤ 1 → (s.entry sp).enabled = true → s.engine.onDemand = none →
    ¬(retain = 1 ∧ (s.heldOrExporting = true ∨ s.banks.retainSlot.isSome = true)) → s.context = some c →
    let i := Instr.testNow tag span retain
    let banks : Banks := if retain = 1 then { s.banks with retainSlot := some sp } else s.banks
    let q := s.conditions.recheck
    let full := s.admissible c.span = true ∧ s.queued c.span = false ∧ 32 ≤ q.length
    (c.span = sp → s.stoppable c = true ∨ s.engine.state = .firing →
      Answers i s
        (({ s with banks := banks } : State).setContext
          { c with reason := .onDemand, retain := c.retain || retain == 1 }) .ok .nothing) ∧
    (c.span ≠ sp → s.stoppable c = true → AnswersWith i s .ok .nothing fun t =>
      t.engine = ({ s.engine with onDemand := some sp } : Engine).decided .preempted ∧
      t.port = s.port.discardSweep ∧
      (s.admissible c.span = false ∨ full → t.conditions = s.conditions) ∧
      (s.admissible c.span = true → s.queued c.span = true → t.conditions.recheck =
        q.filter (fun e => e.span == c.span) ++ q.filter fun e => e.span != c.span) ∧
      (s.admissible c.span = true → s.queued c.span = false → q.length < 32 →
        t.conditions.recheck = { span := c.span, reason := .retry c.cls } :: q) ∧
      (full → t.notices = s.notices.raised .recheckFull) ∧ (¬full → t.notices = s.notices) ∧
      t.conditions = { s.conditions with recheck := t.conditions.recheck } ∧
      t =
        { s with
          banks := banks, engine := t.engine, port := t.port, conditions := t.conditions, notices := t.notices,
          link := t.link })

/-! ### Banks -/

/-- RETAIN_REQUEST (R86). -/
def Obligations.RetainRequestFillsTheSlot : Prop :=
  ∀ (tag span : Byte) (s : State), s.linkFree = true →
    let i := Instr.retainRequest tag span
    (192 ≤ span.toNat → Refuses i s .range) ∧
    ∀ sp : Span, sp.val = span.toNat →
      (s.heldBank.isSome = true ∨ s.banks.retainSlot.isSome = true → Refuses i s .busy) ∧
      (s.heldBank = none → s.banks.retainSlot = none →
        Answers i s { s with banks := { s.banks with retainSlot := some sp } } .ok .nothing)

/-- TRACE_EXPORT (R88): the refusals in their order; otherwise ACCEPTED, and the held bank is EXPORTING with an export
record at the start bin and frame index 0. -/
def Obligations.TraceExportStartsTheExport : Prop :=
  ∀ (tag : Byte) (start count : Half) (s : State), s.linkFree = true →
    let i := Instr.traceExport tag start count
    let bounded := start.toNat ≤ 16383 ∧ 1 ≤ count.toNat ∧ count.toNat ≤ 16384
    (¬bounded → Refuses i s .range) ∧
    (bounded → s.heldBank = none → Refuses i s .notFound) ∧
    ∀ n, bounded → s.heldBank = some n →
      (¬((s.bank n).state = .held ∧ (s.bank n).reanalysis = .idle) → Refuses i s .busy) ∧
      ∀ c, (s.bank n).state = .held → (s.bank n).reanalysis = .idle → (s.bank n).context = some c →
        (c.settings.binCount < start.toNat + count.toNat → Refuses i s .range) ∧
        (start.toNat + count.toNat ≤ c.settings.binCount →
          Answers i s
            (s.setBank n
              { s.bank n with
                state := .exporting
                exporting := some
                  { tag := tag, start := start.toNat, count := count.toNat, nextBin := start.toNat, nextIndex := 0,
                    cancel := false, sending := false } })
            .accepted .nothing)

/-- REANALYSE (R91): the refusals in their order; otherwise 9 slots are reserved, the mark is WAITING with the profile, and
the bank joins the tail of the ready list. -/
def Obligations.ReanalyseQueuesTheHeldBank : Prop :=
  ∀ (tag profile : Byte) (s : State), s.linkFree = true →
    let i := Instr.reanalyse tag profile
    let granted := s.reports.occupancy + s.reports.reserved + 11 ≤ 128 ∧ s.reports.backPressure = false
    (8 ≤ profile.toNat → Refuses i s .range) ∧
    ∀ p : ProfileNo, p.val = profile.toNat →
      (s.heldBank = none → Refuses i s .notFound) ∧
      ∀ n, s.heldBank = some n →
        (¬((s.bank n).state = .held ∧ (s.bank n).reanalysis = .idle ∧ granted) → Refuses i s .busy) ∧
        ((s.bank n).state = .held → (s.bank n).reanalysis = .idle → granted →
          AnswersWith i s .ok .nothing fun t =>
            t.bank n = { s.bank n with reanalysis := .waiting p } ∧
            t.bank (otherBank n) = s.bank (otherBank n) ∧ t.banks.ready = s.banks.ready ++ [n] ∧
            t.banks.retainSlot = s.banks.retainSlot ∧ t.banks.holdLimit = s.banks.holdLimit ∧
            t =
              { s with
                banks := t.banks, reports := { s.reports with reserved := s.reports.reserved + 9 }, link := t.link })

/-- BANK_RELEASE (R93, R90): NOT_FOUND without a held bank; nothing more with release-pending already yes; FREE at once from
HELD without a reanalysis, with HOLD_EXPIRED only if the timer was EXPIRED; an export is cancelled; else release-pending. That release-pending
already yes leaves everything, an export included, is log 18, and that the freed bank keeps its release-pending flag and its
count is log 17: the model's choices. -/
def Obligations.BankReleaseFreesOrMarks : Prop :=
  ∀ (tag : Byte) (s : State), s.linkFree = true →
    let i := Instr.bankRelease tag
    (s.heldBank = none → Refuses i s .notFound) ∧
    ∀ n, s.heldBank = some n →
      let b := s.bank n
      let freed := s.setBank n
        { b with state := .free, context := none, reanalysis := .idle, hold := .stopped, exporting := none }
      (b.releasePending = true → Answers i s s .ok .nothing) ∧
      (b.releasePending = false → b.state = .held → b.reanalysis = .idle → AnswersWith i s .ok .nothing fun t =>
        Chosen s t ∧
        t =
          { freed with
            engine := t.engine, link := t.link,
            notices := if b.hold = .expired then s.notices.raised .holdExpired else s.notices }) ∧
      (b.releasePending = false → b.state = .exporting → ∀ x, b.exporting = some x →
        Answers i s (s.setBank n { b with releasePending := true, exporting := some { x with cancel := true } }) .ok
          .nothing) ∧
      (b.releasePending = false → b.state = .analysing ∨ (b.state = .held ∧ ∃ p, b.reanalysis = .waiting p) →
        Answers i s (s.setBank n { b with releasePending := true }) .ok .nothing)

/-- HOLD_TIMER_EXPIRY (R87): a running timer becomes EXPIRED; HELD without a reanalysis, the bank is FREE at once and
HOLD_EXPIRED is raised, otherwise release-pending becomes yes. That an expiry of a timer that does not run
changes nothing is log 11, and that the freed bank keeps its release-pending flag and its count is log 17. -/
def Obligations.HoldExpiryFreesOrMarks : Prop :=
  ∀ (n : BankName) (s : State),
    let b := s.bank n
    ((∀ length, b.hold ≠ .running length) → exec (.holdTimerExpiry n) s = .next s) ∧
    ∀ length, b.hold = .running length →
      (b.state = .held → b.reanalysis = .idle → ∃ t, exec (.holdTimerExpiry n) s = .next t ∧ Chosen s t ∧
        t =
          { s.setBank n
              { b with state := .free, context := none, reanalysis := .idle, hold := .stopped, exporting := none } with
            engine := t.engine, notices := s.notices.raised .holdExpired }) ∧
      (¬(b.state = .held ∧ b.reanalysis = .idle) →
        exec (.holdTimerExpiry n) s = .next (s.setBank n { b with hold := .expired, releasePending := true }))

/-! ### Baselines, profiles, conditions -/

/-- BASELINE_LOAD (R101 to R105): RANGE by a field, RANGE by the record, NO_SPACE, in this order; otherwise the slot holds the
record with the next generation, the pool pays the difference, the span is set back to UNKNOWN with its last fields kept,
and leaves the re-check queue. -/
def Obligations.BaselineLoadReplacesTheRecord : Prop :=
  ∀ (tag span cls binLength : Byte) (launch endBin : Half) (zones : List ZoneWords) (s : State), s.linkFree = true →
    let i := Instr.baselineLoad tag span cls binLength launch endBin zones
    let good := LoadInRange span cls binLength launch endBin zones ∧ LoadStructured launch endBin zones
    (¬good → Refuses i s .range) ∧
    ∀ (sp : Span) (k : PulseClass), good → sp.val = span.toNat → k.val = cls.toNat →
      let held := (s.slot sp).held
      let record : Baseline :=
        { cls := k, binLength := binLength.toNat, launch := launch.toNat, endBin := endBin.toNat,
          zones := zones.map zoneRecord }
      let back : ConditionEntry :=
        { s.condition sp with state := .unknown, lead := none, attempts := 0, streak := 0 }
      (s.baselines.poolFree + held < zones.length → Refuses i s .noSpace) ∧
      (zones.length ≤ s.baselines.poolFree + held → AnswersWith i s .ok .nothing fun t =>
        t.baselines =
          { slots := tableSet s.baselines.slots sp { record := some record, generation := (s.slot sp).generation + 1 },
            poolFree := s.baselines.poolFree + held - zones.length } ∧
        t.conditions =
          { entries := tableSet s.conditions.entries sp back,
            recheck := s.conditions.recheck.filter fun e => e.span != sp } ∧
        (s.queued sp = true → Chosen s t) ∧ (s.queued sp = false → t.engine = s.engine) ∧
        t = { s with baselines := t.baselines, conditions := t.conditions, engine := t.engine, link := t.link })

/-- BASELINE_DROP (R105, R106) and CONDITION_CLEAR (R145): RANGE above 191; a drop of an absent slot is NOT_FOUND; otherwise
a drop returns the records and makes the slot absent with the next generation, and both set the span back to UNKNOWN,
its last fields kept, and take it out of the re-check queue. -/
def Obligations.DropAndClearSetTheSpanBack : Prop :=
  ∀ (tag span : Byte) (s : State), s.linkFree = true →
    (192 ≤ span.toNat → Refuses (.baselineDrop tag span) s .range ∧ Refuses (.conditionClear tag span) s .range) ∧
    ∀ sp : Span, sp.val = span.toNat →
      let back (t : State) : Prop :=
        t.conditions =
          { entries := tableSet s.conditions.entries sp
              { s.condition sp with state := .unknown, lead := none, attempts := 0, streak := 0 },
            recheck := s.conditions.recheck.filter fun e => e.span != sp } ∧
        (s.queued sp = true → Chosen s t) ∧ (s.queued sp = false → t.engine = s.engine)
      ((s.slot sp).record = none → Refuses (.baselineDrop tag span) s .notFound) ∧
      (∀ b, (s.slot sp).record = some b → AnswersWith (.baselineDrop tag span) s .ok .nothing fun t =>
        t.baselines =
          { slots := tableSet s.baselines.slots sp { record := none, generation := (s.slot sp).generation + 1 },
            poolFree := s.baselines.poolFree + b.zones.length } ∧
        back t ∧
        t = { s with baselines := t.baselines, conditions := t.conditions, engine := t.engine, link := t.link }) ∧
      AnswersWith (.conditionClear tag span) s .ok .nothing fun t =>
        back t ∧ t = { s with conditions := t.conditions, engine := t.engine, link := t.link }

/-- PROFILE_WRITE (R113). -/
def Obligations.ProfileWriteWritesTheProfile : Prop :=
  ∀ (tag profile : Byte) (floor : Half) (persistence stepGap : Byte) (bend grown breakDrop : Half)
    (tolerance blind confirm clearCount : Byte) (s : State), s.linkFree = true →
    let i := Instr.profileWrite tag profile floor persistence stepGap bend grown breakDrop tolerance blind confirm
      clearCount
    let good := profile.toNat ≤ 7 ∧ (1 ≤ persistence.toNat ∧ persistence.toNat ≤ 64) ∧
      (1 ≤ stepGap.toNat ∧ stepGap.toNat ≤ 64) ∧ (1 ≤ bend.toNat ∧ bend.toNat ≤ 20000) ∧
      (1 ≤ grown.toNat ∧ grown.toNat ≤ 20000) ∧ 1 ≤ breakDrop.toNat ∧ confirm.toNat ≤ 1 ∧
      (1 ≤ clearCount.toNat ∧ clearCount.toNat ≤ 15)
    (¬good → Refuses i s .range) ∧
    ∀ p : ProfileNo, p.val = profile.toNat → good →
      let x : Profile :=
        { floor := floor.toNat, persistence := persistence.toNat, stepGap := stepGap.toNat, bend := bend.toNat,
          grown := grown.toNat, breakDrop := breakDrop.toNat, tolerance := tolerance.toNat, blind := blind.toNat,
          confirm := confirm == 1, clearCount := clearCount.toNat }
      Answers i s { s with analyser := { s.analyser with profiles := tableSet s.analyser.profiles p x } } .ok .nothing

/-- PLAN_READ (R4), GROUP_READ (R18), BASELINE_READ (R107) and PROFILE_READ (R114): a number out of range is refused with
RANGE; otherwise the table is answered as it stands, in every state, and nothing changes. -/
def Obligations.ReadsAnswerTheTables : Prop :=
  ∀ (tag x : Byte) (s : State), s.linkFree = true →
    (192 ≤ x.toNat → Refuses (.planRead tag x) s .range ∧ Refuses (.baselineRead tag x) s .range) ∧
    (8 ≤ x.toNat → Refuses (.groupRead tag x) s .range ∧ Refuses (.profileRead tag x) s .range) ∧
    (∀ sp : Span, sp.val = x.toNat →
      Answers (.planRead tag x) s s .ok (.plan (s.entry sp) s.plan.cursor (s.plan.active.map (·.number))) ∧
      Answers (.baselineRead tag x) s s .ok (.baseline (s.slot sp) s.baselines.poolFree)) ∧
    (∀ g : GroupNo, g.val = x.toNat → Answers (.groupRead tag x) s s .ok (.group (s.group g))) ∧
    ∀ p : ProfileNo, p.val = x.toNat → Answers (.profileRead tag x) s s .ok (.profile (s.profile p))

/-- CONDITION_READ (R144): the entry, the place in the re-check queue from 1 at the head, and the length of the queue. -/
def Obligations.ConditionReadAnswersTheEntry : Prop :=
  ∀ (tag span : Byte) (s : State), s.linkFree = true →
    let q := s.conditions.recheck
    (192 ≤ span.toNat → Refuses (.conditionRead tag span) s .range) ∧
    ∀ sp : Span, sp.val = span.toNat →
      (s.queued sp = false →
        Answers (.conditionRead tag span) s s .ok (.condition (s.condition sp) none q.length)) ∧
      ∀ (before after : List RecheckEntry) (e : RecheckEntry), q = before ++ e :: after → e.span = sp →
        (∀ x ∈ before, x.span ≠ sp) →
        Answers (.conditionRead tag span) s s .ok
          (.condition (s.condition sp) (some (before.length + 1, e.reason)) q.length)

/-- The transitions of an ANALYSED result, by the span's state and the lead finding (section 8.3, R139 to R141). -/
def Obligations.JudgementFollowsTheTransitions : Prop :=
  ∀ (e : ConditionEntry) (f : Finding) (rest : List Finding) (tolerance clearCount : Nat) (confirm : Bool),
    let lead : Lead := { kind := f.kind, location := f.location, excess := f.excess }
    let clean := e.judge [] tolerance confirm clearCount
    let found := e.judge (f :: rest) tolerance confirm clearCount
    let clear : ConditionEntry := { e with state := .clear, lead := none, attempts := 0, streak := 0 }
    let faulted : ConditionEntry := { e with state := .faulted, lead := some lead, attempts := 0, streak := 0 }
    let agrees := ∃ l, e.lead = some l ∧ l.kind = f.kind ∧ l.location ≤ f.location + tolerance ∧
      f.location ≤ l.location + tolerance
    (e.state = .unknown → clean = { entry := clear, cause := some .firstClear, askConfirm := false, leadConfirmed := false }) ∧
    (e.state = .clear → clean = { entry := e, cause := none, askConfirm := false, leadConfirmed := false }) ∧
    (e.state = .suspect → clean = { entry := clear, cause := some .transient, askConfirm := false, leadConfirmed := false }) ∧
    (e.state = .faulted → clearCount ≤ e.streak + 1 →
      clean = { entry := clear, cause := some .restored, askConfirm := false, leadConfirmed := false }) ∧
    (e.state = .faulted → e.streak + 1 < clearCount →
      clean = { entry := { e with streak := e.streak + 1 }, cause := none, askConfirm := false, leadConfirmed := false }) ∧
    (e.state = .unknown ∨ e.state = .clear → confirm = false →
      found = { entry := faulted, cause := some .confirmed, askConfirm := false, leadConfirmed := true }) ∧
    (e.state = .unknown ∨ e.state = .clear → confirm = true →
      found = { entry := { faulted with state := .suspect }, cause := some .suspected, askConfirm := true,
                leadConfirmed := false }) ∧
    (e.state = .suspect → agrees →
      found = { entry := faulted, cause := some .confirmed, askConfirm := false, leadConfirmed := true }) ∧
    (e.state = .suspect → ¬agrees → 3 ≤ e.attempts + 1 →
      found = { entry := faulted, cause := some .unstable, askConfirm := false, leadConfirmed := false }) ∧
    (e.state = .suspect → ¬agrees → e.attempts + 1 < 3 →
      found = { entry := { e with lead := some lead, attempts := e.attempts + 1 }, cause := some .suspected,
                askConfirm := true, leadConfirmed := false }) ∧
    (e.state = .faulted → agrees →
      found = { entry := { e with streak := 0 }, cause := none, askConfirm := false, leadConfirmed := true }) ∧
    (e.state = .faulted → ¬agrees →
      found = { entry := { e with lead := some lead, streak := 0 }, cause := some .changed, askConfirm := false,
                leadConfirmed := false })

/-! ### Reports, notices, device -/

/-- DRAIN (R157, R155): RANGE, then BUSY in STREAM mode; otherwise the oldest records, up to n, leave in the RESPONSE,
back-pressure clears at the resume mark, and the engine chooses. -/
def Obligations.DrainTakesTheOldestRecords : Prop :=
  ∀ (tag n : Byte) (s : State), s.linkFree = true →
    let i := Instr.drain tag n
    let left := s.reports.occupancy - n.toNat
    (n.toNat = 0 ∨ 8 < n.toNat → Refuses i s .range) ∧
    (1 ≤ n.toNat → n.toNat ≤ 8 → s.reports.delivery = .stream → Refuses i s .busy) ∧
    (1 ≤ n.toNat → n.toNat ≤ 8 → s.reports.delivery = .held →
      AnswersWith i s .ok (.drained (s.reports.records.take n.toNat) left) fun t =>
        (s.reports.records = [] → t = { s with link := t.link }) ∧
        (s.reports.records ≠ [] → Chosen s t ∧ t.reports =
          { s.reports with
            records := s.reports.records.drop n.toNat
            backPressure := if left ≤ s.reports.resumeMark then false else s.reports.backPressure }) ∧
        t = { s with reports := t.reports, engine := t.engine, link := t.link })

/-- NOTICE_READ and NOTICE_ACK (R163): the pending set and the mask are answered; a named kind is cleared, but for a level
kind whose condition holds. NOTICE_MASK (R164): the last pair of actions 1 and 3 that names a kind decides its mark; 0 and
2 leave it. Each answers the set as it stands after it. ALERT is asserted exactly when a pending kind is not masked (R162). -/
def Obligations.NoticeCommands : Prop :=
  (∀ s : State, s.alert = true ↔
    ∃ k, k < 13 ∧ s.notices.pending.getLsbD k = true ∧ s.notices.mask.getLsbD k = false) ∧
  (∀ (tag : Byte) (kinds : List Byte) (s : State), s.linkFree = true →
    let good := 1 ≤ kinds.length ∧ kinds.length ≤ 13 ∧ ∀ b ∈ kinds, b.toNat ≤ 12
    let holds (k : Nat) : Prop := (k = 7 ∧ s.port.gate = .hot) ∨ (k = 11 ∧ s.reports.backPressure = true) ∨
      (k = 12 ∧ s.window.reference = .lost)
    Answers (.noticeRead tag) s s .ok (.notices s.notices.pending s.notices.mask) ∧
    (¬good → Refuses (.noticeAck tag kinds) s .range) ∧
    (good → ∃ set : BitVec 13,
      (∀ k, k < 13 →
        (set.getLsbD k = true ↔
          s.notices.pending.getLsbD k = true ∧ ((∀ b ∈ kinds, b.toNat ≠ k) ∨ holds k))) ∧
      Answers (.noticeAck tag kinds) s { s with notices := { s.notices with pending := set } } .ok (.noticeSet set))) ∧
  ∀ (tag : Byte) (pairs : List (Byte × Byte)) (s : State), s.linkFree = true →
    let good := 1 ≤ pairs.length ∧ pairs.length ≤ 13 ∧ ∀ p ∈ pairs, p.1.toNat ≤ 12 ∧ p.2.toNat ≤ 3
    let marks := (pairs.filter fun p => p.2 = 1 || p.2 = 3).map fun p => (p.1.toNat, p.2 == 1)
    (¬good → Refuses (.noticeMask tag pairs) s .range) ∧
    (good → ∃ set : BitVec 13,
      (∀ k, k < 13 → set.getLsbD k = lastOf k (s.notices.mask.getLsbD k) marks) ∧
      Answers (.noticeMask tag pairs) s { s with notices := { s.notices with mask := set } } .ok (.noticeSet set))

/-- SETTINGS_WRITE (R173, R78, R158): checked whole; each named setting takes the value of its last pair; a change of a mark
sets back-pressure with REPORT_HIGH, or clears it at once and calls the engine, which chooses; nothing else of any block changes. -/
def Obligations.SettingsWriteStoresTheValues : Prop :=
  ∀ (tag : Byte) (pairs : List (Byte × Half)) (s : State), s.linkFree = true →
    let i := Instr.settingsWrite tag pairs
    let values := pairs.map fun p => (p.1.toNat, p.2.toInt)
    let formed (k : Nat) : Int := lastOf k (s.settings.value k) values
    let good := 1 ≤ pairs.length ∧ pairs.length ≤ 8 ∧ (∀ v ∈ values, InRange (settingRange v.1) v.2) ∧
      formed 2 < formed 1 ∧ formed 7 + 8 ≤ formed 6
    let changed := formed 6 ≠ s.reports.pauseMark ∨ formed 7 ≠ s.reports.resumeMark
    let sets := changed ∧ formed 6 ≤ s.reports.occupancy
    let clears := changed ∧ ¬(formed 6 ≤ s.reports.occupancy) ∧ s.reports.occupancy ≤ formed 7
    (¬good → Refuses i s .range) ∧
    (good → AnswersWith i s .ok .nothing fun t =>
      (∀ k, k < 8 → t.settings.value k = formed k) ∧
      (sets → t.reports.backPressure = true) ∧ (clears → t.reports.backPressure = false) ∧
      (¬sets → ¬clears → t.reports.backPressure = s.reports.backPressure) ∧
      (sets ∧ s.reports.backPressure = false → t.notices = s.notices.raised .reportHigh) ∧
      (¬(sets ∧ s.reports.backPressure = false) → t.notices = s.notices) ∧
      t.reports =
        { s.reports with
          delivery := t.reports.delivery, pauseMark := t.reports.pauseMark, resumeMark := t.reports.resumeMark,
          backPressure := t.reports.backPressure } ∧
      t.port = { s.port with hotLimit := t.port.hotLimit, coolLimit := t.port.coolLimit } ∧
      t.banks = { s.banks with holdLimit := t.banks.holdLimit } ∧
      t.window = { s.window with graceSetting := t.window.graceSetting } ∧
      t.engine = { s.engine with selectorTimeout := t.engine.selectorTimeout, state := t.engine.state } ∧
      (clears → Chosen { s with engine := { s.engine with selectorTimeout := t.engine.selectorTimeout } } t) ∧
      (¬clears ∨ s.sweepInFlight = true → t.engine.state = s.engine.state) ∧ t.sweepInFlight = s.sweepInFlight ∧
      t =
        { s with
          engine := t.engine, port := t.port, banks := t.banks, window := t.window, reports := t.reports,
          notices := t.notices, link := t.link })

/-- SETTINGS_READ (R173) and STATUS_READ (R174) answer what the owning blocks hold, and change nothing. -/
def Obligations.SettingsAndStatusAreRead : Prop :=
  ∀ (tag : Byte) (s : State), s.linkFree = true →
    Answers (.settingsRead tag) s s .ok
      (.settings
        { selectorTimeout := s.engine.selectorTimeout, hotLimit := s.port.hotLimit, coolLimit := s.port.coolLimit,
          holdLimit := s.banks.holdLimit, closeGrace := s.window.graceSetting, delivery := s.reports.delivery,
          pauseMark := s.reports.pauseMark, resumeMark := s.reports.resumeMark }) ∧
    Answers (.statusRead tag) s s .ok
      (.status
        { engine := s.engine.state,
          sweepSpan := if s.engine.state = .idle ∨ s.engine.state = .waiting then none else s.context.map (·.span),
          window := s.window.state, mode := s.window.mode, integrity := s.window.integrity,
          bankA :=
            { state := s.banks.a.state, reanalysis := s.banks.a.reanalysis, releasePending := s.banks.a.releasePending },
          bankB :=
            { state := s.banks.b.state, reanalysis := s.banks.b.reanalysis, releasePending := s.banks.b.releasePending },
          intakeOccupancy := s.port.fifo.length, reportOccupancy := s.reports.records.length,
          reserved := s.reports.reserved, backPressure := s.reports.backPressure,
          recheckLength := s.conditions.recheck.length, onDemand := s.engine.onDemand,
          retainSlot := s.banks.retainSlot, selector := s.engine.selector, gate := s.port.gate,
          pending := s.notices.pending, lastReset := s.link.lastReset, stray := s.port.stray,
          omitted := s.reports.omitted, discarded := s.link.discarded })

/-- RESTART and FULL_RESET (R175): answered OK with the dispatcher in RESET_PENDING, and nothing else changed yet. -/
def Obligations.ResetCommandsAreAnsweredFirst : Prop :=
  ∀ (tag : Byte) (s : State), s.linkFree = true →
    let done (k : ResetCommand) (code : Byte) (t : State) : Prop :=
      t = { s with link := t.link } ∧
        Answered s t (.resetPending k) { tag := tag, status := .ok, code := code, results := .nothing }
    (∃ t, exec (.restart tag) s = .next t ∧ done .restart 0x93 t) ∧
    (∃ t, exec (.fullReset tag) s = .next t ∧ done .fullReset 0x94 t)

/-- FRAME_SENT of the OK of a pending reset (R175): the reset takes effect, then the link goes on (`State.pump`). RESTART
keeps the tables, the conditions, the clock and the settings; FULL_RESET keeps the clock; both empty the report queue,
free the banks, stop the engine and the analyser, and set the pending set anew: RESTARTED, the level kinds whose
condition holds, and nothing else (R165) but the WINDOW_EDGE that the CLOSED edge of a RESTART raises; that edge record is
put into the emptied queue, and the engine chooses (R63). That the model's own
fields freeCount and outputs stay is logs 8 and 9, the CLOSED edge of a window without a recorded cause log 19, and that a
waiting command is taken before the arbiter grants log 10: the model's choices. -/
def Obligations.ResetTakesEffectAfterItsResponse : Prop :=
  ∀ (s : State) (r : Response) (k : ResetCommand), s.link.transmitter = some (.response r) →
    s.link.dispatcher = .resetPending k → s.link.buffer = none →
    ∃ t : State, exec .frameSent s = .next t.pump ∧
      (k = .restart →
        t.plan.entries = s.plan.entries ∧ t.plan.cursor = s.plan.cursor ∧ t.plan.groups = s.plan.groups ∧
        t.plan.ending = [] ∧
        (s.window.state ≠ .opened ∨ s.anyEnabled = false → t.plan.active = none ∧
          t.plan.lastNumber = s.plan.lastNumber) ∧
        (s.window.state = .opened → s.anyEnabled = true → ∃ c, t.plan.active = some c ∧ c.start = s.plan.cursor ∧
          c.planStarted = 0 ∧ c.number = t.plan.lastNumber ∧
          c.number = if s.plan.lastNumber < 65535 then s.plan.lastNumber + 1 else 1) ∧
        (¬(s.window.state = .closing ∧ s.window.grace = .expired) → t.window = s.window ∧ t.reports =
          { s.reports with records := [], reserved := 0, backPressure := false, sequence := 0 }) ∧
        (s.window.state = .closing → s.window.grace = .expired →
          t.window = { s.window with state := .closed, grace := .stopped } ∧
          t.reports = ({ s.reports with records := [], reserved := 0, backPressure := false, sequence := 0 } : Reports).edged
            (.windowEdge .closed (s.window.closeCause.getD .matched) s.window.time s.window.integrity)) ∧
        t.engine =
          { Engine.initial with
            selectorTimeout := s.engine.selectorTimeout
            state := if t.sourceExists = true then .waiting else .idle } ∧
        t.port =
          { Port.initial with
            gate := s.port.gate, hotLimit := s.port.hotLimit, coolLimit := s.port.coolLimit, stray := s.port.stray } ∧
        t.banks.a = { Bank.initial with sums := s.banks.a.sums } ∧
        t.banks.b = { Bank.initial with sums := s.banks.b.sums } ∧ t.banks.retainSlot = none ∧ t.banks.ready = [] ∧
        t.banks.holdLimit = s.banks.holdLimit ∧ t.baselines = s.baselines ∧
        t.analyser = { s.analyser with record := none } ∧ t.conditions = { s.conditions with recheck := [] } ∧
        t.notices.mask = s.notices.mask ∧
        (∀ k : NoticeKind, k.isIn t.notices.pending = true ↔ k = .restarted ∨
          (k = .thermal ∧ s.port.gate = .hot) ∨ (k = .clockLost ∧ s.window.reference = .lost) ∨
          (k = .windowEdge ∧ s.window.state = .closing ∧ s.window.grace = .expired) ∨
          (k = .reportHigh ∧ t.reports.backPressure = true)) ∧
        t.outputs = s.outputs ∧ t.freeCount = s.freeCount ∧ t.pending = s.pending ∧
        t.link = { s.link with transmitter := none, dispatcher := .ready, lastReset := .restart }) ∧
      (k = .fullReset → t =
        { s with
          plan := Plan.initial
          window :=
            { Window.initial with
              time := s.window.time, divider := s.window.divider, integrity := s.window.integrity,
              reference := s.window.reference }
          engine := Engine.initial, port := Port.initial
          banks :=
            { Banks.initial with
              a := { Bank.initial with sums := s.banks.a.sums }, b := { Bank.initial with sums := s.banks.b.sums } }
          baselines := Baselines.initial, analyser := Analyser.initial, conditions := Conditions.initial
          reports := Reports.initial
          notices := { pending := if s.window.reference = .lost then 0x1001 else 1, mask := 6 }
          link :=
            { s.link with transmitter := none, dispatcher := .ready, discarded := 0, lastReset := .fullReset } })

/-- FRAME_SENT otherwise (R171, R90): nothing is sent by an IDLE transmitter; after a RESPONSE or a REPORT frame the link goes
on from an IDLE transmitter (`State.pump`); the final frame of an export gives its bank back, another lets the next be
offered, and a frame of an export that a reset has ended tells no bank anything, a new export of that bank among them (R95).
The arbiter (R171, R156) leaves a busy transmitter alone and grants an IDLE one to the offered RESPONSE, then to
the offered EXPORT frame, then, in STREAM mode, to a REPORT frame of the 8 oldest records under the report sequence. An
EXPORTING bank with no frame in transmission offers its next frame (R89): up to 448 averaged levels from the next bin on,
final when no level is left after it, or, after a cancel, the final frame without levels (R90); at its grant the next bin
and the next index go past it. `State.pump` takes the frame at the head of the command queue when the dispatcher is READY, which the
effect of a reset leaves (R175), lets the arbiter grant, and takes the next frame when the grant of a RESPONSE has made the
dispatcher READY (R169); before that one a sweep that is due starts, a bank that the final EXPORT frame has freed among its
grounds (R38, R39, R82). The order of taking and grant is log 10, that of taking and start log 28, the mark of a frame in transmission log
12, the freed bank's kept flag and count log 17, and that FRAME_SENT of an IDLE transmitter changes nothing log 11: the
model's choices. -/
def Obligations.FrameSentLetsTheArbiterGrant : Prop :=
  ∀ s : State,
    let idle : State := { s with link := { s.link with transmitter := none } }
    let granted : State := s.dispatch.grant
    (s.link.transmitter = none → exec .frameSent s = .next s) ∧
    (∀ r, s.link.transmitter = some (.response r) → (∀ k, s.link.dispatcher ≠ .resetPending k) ∨ s.link.buffer ≠ none →
      exec .frameSent s = .next idle.pump) ∧
    (∀ q l, s.link.transmitter = some (.report q l) → exec .frameSent s = .next idle.pump) ∧
    (∀ f x, s.link.transmitter = some (.exported f) → (s.bank f.bank).state = .exporting →
      (s.bank f.bank).exporting = some x → x.sending = true →
      let b := s.bank f.bank
      (f.last = false → exec .frameSent s =
        .next (idle.setBank f.bank { b with exporting := some { x with sending := false } }).pump) ∧
      (f.last = true → b.releasePending = false → exec .frameSent s =
        .next (idle.setBank f.bank { b with state := .held, reanalysis := .idle, exporting := none }).pump) ∧
      (f.last = true → b.releasePending = true → ∃ t : State, exec .frameSent s = .next t.pump ∧ Chosen s t ∧
        t =
          { idle.setBank f.bank
              { b with state := .free, context := none, reanalysis := .idle, hold := .stopped, exporting := none } with
            engine := t.engine
            notices := if b.hold = .expired then s.notices.raised .holdExpired else s.notices })) ∧
    (∀ f, s.link.transmitter = some (.exported f) →
      (s.bank f.bank).state ≠ .exporting ∨ (s.bank f.bank).exporting = none ∨
        (∃ x, (s.bank f.bank).exporting = some x ∧ x.sending = false) →
      exec .frameSent s = .next idle.pump) ∧
    (s.link.transmitter ≠ none → s.grant = s) ∧
    (∀ r, s.link.transmitter = none → s.link.buffer = some r →
      s.grant = { s with link :=
        { s.link with buffer := none, dispatcher := s.link.dispatcher.released, transmitter := some (.response r) } }) ∧
    (∀ f, s.link.transmitter = none → s.link.buffer = none → s.exportOffer = some f →
      s.grant.link = { s.link with transmitter := some (.exported f) } ∧
      s.grant = { s with banks := s.grant.banks, link := s.grant.link }) ∧
    (∀ n x c, s.link.transmitter = none → s.link.buffer = none → (s.bank n).state = .exporting →
      (s.bank n).exporting = some x → (s.bank n).context = some c → x.sending = false →
      (s.bank (otherBank n)).state ≠ .exporting →
      let b := s.bank n
      let left := x.start + x.count - x.nextBin
      let k := if x.cancel = true then 0 else if left < 448 then left else 448
      s.grant =
        { s.setBank n
            { b with
              exporting := some { x with nextBin := x.nextBin + k, nextIndex := x.nextIndex + 1, sending := true } } with
          link := { s.link with
            transmitter := some (.exported
              { tag := x.tag, span := c.span, bank := n, index := x.nextIndex, firstBin := x.nextBin,
                levels := (List.range k).map fun j => (b.sums.read (x.nextBin + j)).toNat / b.accepted,
                last := x.cancel || decide (left ≤ 448), cancelled := x.cancel }) } }) ∧
    (s.link.transmitter = none → s.link.buffer = none → s.exportOffer = none → s.reports.delivery = .stream →
      s.reports.records ≠ [] →
      s.grant.link =
        { s.link with transmitter := some (.report s.reports.sequence (s.reports.records.take 8)) } ∧
      s.grant.reports =
        { s.reports with
          records := s.reports.records.drop 8, sequence := s.reports.sequence + 1
          backPressure :=
            if s.reports.occupancy - 8 ≤ s.reports.resumeMark then false else s.reports.backPressure } ∧
      Chosen s s.grant ∧
      s.grant = { s with reports := s.grant.reports, engine := s.grant.engine, link := s.grant.link }) ∧
    (s.link.transmitter = none → s.link.buffer = none → s.exportOffer = none →
      s.reports.delivery = .held ∨ s.reports.records = [] → s.grant = s) ∧
    (granted.link.dispatcher ≠ .ready ∨ granted.link.queue = [] → s.pump = granted) ∧
    (granted.link.dispatcher = .ready → granted.link.queue ≠ [] → ∃ v, Starts granted v ∧ s.pump = v.dispatch) ∧
    (s.link.dispatcher ≠ .ready ∨ s.link.queue = [] → s.dispatch = s) ∧
    ∀ f rest, s.link.dispatcher = .ready → s.link.queue = f :: rest → TakesHead s s.dispatch f rest

/-! ### The sweep engine -/

/-- The optical selector (R42 to R45). SET_REPLY for the port of the request: AT that port, unsettled, the selector timer
stopped; a sweep in SELECTING for it goes on to SETTLING, one for another port sends its own SELECT. SET naming another
port, FAULT_REPLY, and SELECTOR_TIMER_EXPIRY of a running timer: UNKNOWN, SELECTOR_FAULT raised; a sweep in SELECTING ends
NO_PORT when the request was for its port, and sends its own SELECT when it was inherited. Without a request in progress
replies and expiries are ignored (of an expiry that is log 11), and a sweep that ends NO_PORT stands in DRAINING until
CLOSING_ACTIONS (log 1): the model's choices. -/
def Obligations.SelectorRepliesEndTheRequest : Prop :=
  (∀ (q : Byte) (s : State),
    ((∀ p, s.engine.selector ≠ .moving p) →
      exec (.setReply q) s = .next s ∧ exec .faultReply s = .next s ∧ exec .selectorTimerExpiry s = .next s) ∧
    ∀ p : SelPort, s.engine.selector = .moving p → p.val = q.toNat →
      let at_ : Engine := { s.engine with selector := .atPort p false, selectorTimer := none }
      (s.engine.state ≠ .selecting ∨ s.context = none → exec (.setReply q) s = .next { s with engine := at_ }) ∧
      ∀ c, s.engine.state = .selecting → s.context = some c →
        (c.port = p → exec (.setReply q) s =
          .next { s with engine := { at_ with state := .settling, settleTimer := some c.settings.settleTime } }) ∧
        (c.port ≠ p → exec (.setReply q) s =
          .next
            { s with
              engine := { at_ with selector := .moving c.port, selectorTimer := some s.engine.selectorTimeout }
              outputs := { s.outputs with selects := s.outputs.selects ++ [c.port] } })) ∧
  ∀ (i : Instr) (p : SelPort) (s : State), s.engine.selector = .moving p →
    (∃ q : Byte, i = .setReply q ∧ q.toNat ≠ p.val) ∨ i = .faultReply ∨
      (i = .selectorTimerExpiry ∧ s.engine.selectorTimer.isSome = true) →
    let failed : Engine := { s.engine with selector := .unknown, selectorTimer := none }
    let raised := s.notices.raised .selectorFault
    (s.engine.state ≠ .selecting ∨ s.context = none → exec i s = .next { s with engine := failed, notices := raised }) ∧
    ∀ c, s.engine.state = .selecting → s.context = some c →
      (c.port = p → exec i s =
        .next { s with engine := failed.decided .noPort, notices := raised, port := s.port.discardSweep }) ∧
      (c.port ≠ p → exec i s =
        .next
          { s with
            engine := { failed with selector := .moving c.port, selectorTimer := some s.engine.selectorTimeout }
            notices := raised
            outputs := { s.outputs with selects := s.outputs.selects ++ [c.port] } })

/-- SETTLE_TIMER_EXPIRY in SETTLING (R45, R46): AT the sweep's port, settled, and DARK_CHECK; a dark FIRE leaves at once when
no shot is outstanding and the admission condition holds. That it does nothing when no settle timer
runs is the model's choice (log 11). -/
def Obligations.SettleExpiryEntersDarkCheck : Prop :=
  ∀ s : State,
    (s.engine.state ≠ .settling ∨ s.engine.settleTimer = none → exec .settleTimerExpiry s = .next s) ∧
    ∀ c n, s.engine.state = .settling → s.engine.settleTimer = some n → s.context = some c →
      let dark : Engine :=
        { s.engine with state := .darkCheck, selector := .atPort c.port true, settleTimer := none }
      let bins := c.settings.binCount
      (s.port.outstanding = [] → s.port.fifo.length + bins ≤ 32768 → exec .settleTimerExpiry s =
        .next
          { s with
            engine := dark
            port := { s.port with
              outstanding := [{ tag := s.port.tagCounter, bins := bins, dark := true, discard := false }]
              tagCounter := s.port.tagCounter + 1 }
            outputs := { s.outputs with fires := s.outputs.fires ++
              [{ tag := s.port.tagCounter, cls := c.cls, binCount := bins, binLength := c.settings.binLength,
                 dark := true }] } }) ∧
      (s.port.outstanding ≠ [] ∨ 32768 < s.port.fifo.length + bins → exec .settleTimerExpiry s =
        .next { s with engine := dark })

/-- STATUS_WORD (R77) and HOT_HOLD_TIMER_EXPIRY (R52): the thermal gate follows the temperature with hysteresis; a turn to HOT
raises THERMAL, a turn to COOL leaves HOT_HOLD for FIRING; an expiry in HOT_HOLD ends the sweep HOT. At
either turn the engine tests its firing conditions again (R49). That an expiry of a timer that does not run changes nothing
is log 11, and that a sweep ended HOT stands in DRAINING until CLOSING_ACTIONS log 1: the model's choices. -/
def Obligations.ThermalGateFollowsTheTemperature : Prop :=
  ∀ (x : Int) (s : State),
    let hot : Port := { s.port with gate := .hot }
    (x < -40 ∨ 125 < x → exec (.statusWord x) s = .next s) ∧
    (s.port.gate = .cool → x < s.port.hotLimit → exec (.statusWord x) s = .next s) ∧
    (s.port.gate = .hot → s.port.coolLimit < x → exec (.statusWord x) s = .next s) ∧
    (-40 ≤ x → x ≤ 125 → s.port.gate = .cool → s.port.hotLimit ≤ x → s.engine.state ≠ .firing →
      s.engine.state ≠ .darkCheck ∨ s.port.outstanding ≠ [] → exec (.statusWord x) s =
        .next { s with port := hot, notices := s.notices.raised .thermal }) ∧
    (∀ c, -40 ≤ x → x ≤ 125 → s.port.gate = .cool → s.port.hotLimit ≤ x → s.engine.state = .firing →
      s.context = some c → exec (.statusWord x) s =
        .next
          { s with
            port := hot, notices := s.notices.raised .thermal,
            engine :=
              if s.port.outstanding.length < 2 ∧ c.accepted + s.port.outstanding.length < c.settings.shotCount ∧
                s.port.fifo.length + s.port.expected + c.settings.binCount ≤ 32768 then
                { s.engine with state := .hotHold, hotHoldTimer := true }
              else s.engine }) ∧
    (-40 ≤ x → x ≤ 125 → s.port.gate = .cool → s.port.hotLimit ≤ x → ∃ t, exec (.statusWord x) s = .next t ∧
      Tested { s with port := hot, notices := s.notices.raised .thermal } t) ∧
    (-40 ≤ x → x ≤ 125 → s.port.gate = .hot → x ≤ s.port.coolLimit → ∃ t, exec (.statusWord x) s = .next t ∧
      Tested
        { s with
          port := { s.port with gate := .cool }
          engine :=
            if s.engine.state = .hotHold then { s.engine with state := .firing, hotHoldTimer := false }
            else s.engine } t) ∧
    (s.engine.state = .hotHold → s.engine.hotHoldTimer = true → exec .hotHoldTimerExpiry s =
      .next { s with engine := s.engine.decided .hot, port := s.port.discardSweep }) ∧
    (s.engine.state ≠ .hotHold ∨ s.engine.hotHoldTimer = false → exec .hotHoldTimerExpiry s = .next s)

/-- HEADER_WORD (R68, R71) and SAMPLE_WORD (R69): a header of an outstanding tag opens its block, any other is stray. An open
block is torn first: its entry leaves the list and its samples the FIFO, where they are the youngest, and the engine takes
the judgement torn (R47, R50): one more rejected, LIT at the reject limit, the next FIRE otherwise, nothing in DRAINING
(R54). That the engine has taken the tear's judgement before the header is taken is the model's choice (log 13), and so is
the order of a LIT sweep's row CLOSING_ACTIONS (log 1). A sample of an open block enters the FIFO up to the bins expected, one
more marks the block over-length, and without an open block it is dropped. -/
def Obligations.HeaderAndSampleAreTaken : Prop :=
  ∀ (tag : Byte) (bins level : Half) (s : State),
    ((∀ b, s.port.intake ≠ .opened b) →
      (∃ t, exec (.headerWord tag bins) s = .next t ∧ Headed s t tag bins) ∧ exec (.sampleWord level) s = .next s) ∧
    ∀ b, s.port.intake = .opened b →
      let dropped : State :=
        { s with port := { s.port with
          intake := .noBlock
          outstanding := s.port.outstanding.filter fun x => x.tag != b.tag
          fifo := s.port.fifo.take (s.port.fifo.length - b.count) } }
      (s.port.shot b.tag = none →
        (∃ t, exec (.headerWord tag bins) s = .next t ∧ Headed dropped t tag bins) ∧
        exec (.sampleWord level) s = .next s) ∧
      ∀ x, s.port.shot b.tag = some x →
        (∃ u t, Rejected dropped u x.dark False ∧ exec (.headerWord tag bins) s = .next t ∧ Headed u t tag bins) ∧
        (b.count < x.bins → exec (.sampleWord level) s = .next
          { s with port := { s.port with
            fifo := s.port.fifo ++ [level]
            intake := .opened
              { b with
                count := b.count + 1, darkSum := if x.dark = true then b.darkSum + level.toNat else b.darkSum } } }) ∧
        (x.bins ≤ b.count → exec (.sampleWord level) s = .next
          { s with port := { s.port with intake := .opened { b with overLength := true } } })

/-- TRAILER_WORD (R70, R47, R50, R52, R54, R75, R76): without an open block it is stray, or ends a stray block. The open block
is judged torn, saturated or accepted, in this order, and its entry leaves the list. A good block that is not dark and not
marked for discard joins the accumulation list; the samples of any other leave the FIFO. A judgement counts for a dark
block in DARK_CHECK, and for another in FIRING and HOT_HOLD: a rejected one ends the sweep LIT at the reject limit, a
saturated dark one at once, a good dark one starts the firing when its mean is below the lit level and ends the sweep LIT
otherwise, and the sweep goes on with the next FIRE (R46, R49). In DRAINING the port alone changes. That a sweep ended LIT
stands in DRAINING until CLOSING_ACTIONS is the model's choice (log 1). -/
def Obligations.TrailerJudgesTheBlock : Prop :=
  ∀ (saturated : Bool) (s : State),
    (s.port.intake = .noBlock → exec (.trailerWord saturated) s = .next
      { s with port := { s.port with stray := if s.port.stray < 65535 then s.port.stray + 1 else s.port.stray } }) ∧
    (s.port.intake = .stray → exec (.trailerWord saturated) s = .next
      { s with port := { s.port with intake := .noBlock } }) ∧
    ∀ b x, s.port.intake = .opened b → s.port.shot b.tag = some x →
      let torn := b.overLength = true ∨ b.count ≠ x.bins ∨ b.headerBins ≠ x.bins
      let good := ¬torn ∧ saturated = false
      let removed : Port := { s.port with
        intake := .noBlock, outstanding := s.port.outstanding.filter fun y => y.tag != b.tag }
      let dropped : State :=
        { s with port := { removed with fifo := s.port.fifo.take (s.port.fifo.length - b.count) } }
      let joined (n : BankName) : State :=
        { s with port := { removed with
          accumulation := s.port.accumulation ++
            [{ tag := x.tag, bins := x.bins, bank := n, summed := 0, counted := true }] } }
      (s.engine.state = .draining → x.discard = true → exec (.trailerWord saturated) s = .next dropped) ∧
      (¬good → ∃ t, exec (.trailerWord saturated) s = .next t ∧ Rejected dropped t x.dark (x.dark = true ∧ ¬torn)) ∧
      (good → x.dark = true ∨ x.discard = true ∨ s.engine.bank = none →
        ∃ t, exec (.trailerWord saturated) s = .next t ∧ Accepted dropped t x.dark (b.darkSum / x.bins)) ∧
      ∀ n, good → x.dark = false → x.discard = false → s.engine.bank = some n →
        ∃ t, exec (.trailerWord saturated) s = .next t ∧ Accepted (joined n) t false 0

/-- SHOT_TIMER_EXPIRY (R72, R48, R54): the entry leaves the list, its open block is torn away silently; the loss is counted,
the third in a row ends the sweep MUTE with FRONT_END_MUTE, and the sweep goes on with the next FIRE otherwise (R46, R49); in
DRAINING the tallies stay. That an expiry of a tag that is not outstanding changes nothing is log 11, and that a sweep ended
MUTE stands in DRAINING until CLOSING_ACTIONS log 1: the model's choices. -/
def Obligations.ShotTimerExpiryLosesTheShot : Prop :=
  ∀ (tag : Byte) (s : State),
    (s.port.shot tag = none → exec (.shotTimerExpiry tag) s = .next s) ∧
    ∀ x, s.port.shot tag = some x →
      let left := s.port.outstanding.filter fun y => y.tag != tag
      let port : Port :=
        match s.port.intake with
        | .opened b =>
          if b.tag = tag then
            { s.port with
              intake := .noBlock, outstanding := left, fifo := s.port.fifo.take (s.port.fifo.length - b.count) }
          else { s.port with outstanding := left }
        | _ => { s.port with outstanding := left }
      (s.engine.state = .draining ∨ s.context = none ∨ ¬s.Counts x.dark →
        exec (.shotTimerExpiry tag) s = .next { s with port := port }) ∧
      ∀ c, s.context = some c → s.Counts x.dark →
        let counted : SweepContext :=
          { c with
            lost := if c.lost < 65535 then c.lost + 1 else c.lost, consecutiveLost := c.consecutiveLost + 1 }
        (2 ≤ c.consecutiveLost → exec (.shotTimerExpiry tag) s = .next
          { s.setContext counted with
            port := port.discardSweep, engine := s.engine.decided .mute,
            notices := s.notices.raised .frontEndMute }) ∧
        (c.consecutiveLost < 2 → ∃ t, exec (.shotTimerExpiry tag) s = .next t ∧
          Tested { s.setContext counted with port := port } t)

/-- SAMPLE_SUMMED and ACCUMULATION_COMPLETE (R74, R76): one sample of the head block is added to its bank's sum of its bin,
and to no other, and leaves the FIFO; a head block that is summed to its end leaves the list, and a counted one raises the
bank's accepted-shot count. After either the engine tests its firing conditions (R49). That a counted block leaves the list
at ACCUMULATION_COMPLETE, a step of its own after its last sample, is log 1, and that an uncounted head leaves at its last
SAMPLE_SUMMED log 23: the model's choices. -/
def Obligations.SummingFillsTheBank : Prop :=
  ∀ s : State,
    (s.port.accumulation = [] ∨ s.port.fifo = [] → exec .sampleSummed s = .next s) ∧
    (s.port.accumulation = [] → exec .accumulationComplete s = .next s) ∧
    ∀ head rest, s.port.accumulation = head :: rest →
      let n := head.bank
      (∀ level fifo, s.port.fifo = level :: fifo → head.bins ≤ head.summed → exec .sampleSummed s = .next s) ∧
      (∀ level fifo, s.port.fifo = level :: fifo → head.summed < head.bins → (s.bank n).sums.wf = true →
        ∃ u t, exec .sampleSummed s = .next t ∧ Tested u t ∧
          (∀ j, (u.bank n).sums.read j =
            if j = head.summed then (s.bank n).sums.read j + level.setWidth 32 else (s.bank n).sums.read j) ∧
          u = { s.setBank n { s.bank n with sums := (u.bank n).sums } with port := u.port } ∧
          u.port =
            { s.port with
              fifo := fifo
              accumulation :=
                if head.counted = false ∧ head.bins - head.summed = 1 then rest
                else { head with summed := head.summed + 1 } :: rest }) ∧
      (head.summed < head.bins → exec .accumulationComplete s = .next s) ∧
      (head.bins ≤ head.summed → ∃ t, exec .accumulationComplete s = .next t ∧
        Tested
          { s.setBank n
              { s.bank n with accepted := (s.bank n).accepted + if head.counted = true then 1 else 0 } with
            port := { s.port with accumulation := rest } } t)

/-- SWEEP_START (R37 to R39, R81): nothing while a sweep is in flight; without a FREE bank or a grant, or without a source,
only the choice of R38. Otherwise the first source is taken: the on-demand slot, the head of the re-check queue in an
OPEN window, the plan's first enabled entry from the cursor on; the bank is claimed, which ends the summing that still goes
on into it (R76), 9 slots are reserved, the context is built from the tables as they stand, and the selector's table
says how the sweep goes on (R43). A scan that comes round to the cycle's start ends the cycle with reason
WRAP, with its CYCLE_END and CYCLE_DONE when no sweep of it is unreported (R13), and goes on in a new one (R7, R10). That a sweep that is due starts in a step of its own is the model's choice (log 1). -/
def Obligations.SweepStartTakesTheFirstSource : Prop :=
  ∀ s : State, ∃ t, exec .sweepStart s = .next t.grant ∧ Starts s t

/-- SWEEP_COMPLETE (R51, R82, R83, R32): when accepted tally and completed accumulations have reached the shot count the bank
is FULL and joins the ready list, the engine holds no sweep and chooses, and a CLOSING window becomes CLOSED with its edge
record; otherwise nothing but the arbiter's grant. That this is a step of its own is log 1, the edge of a window without a
recorded cause log 19: the model's choices. -/
def Obligations.SweepCompleteHandsTheBankOver : Prop :=
  ∀ s : State,
    (∀ c, s.context = some c → s.completes c = false → exec .sweepComplete s = .next s.grant) ∧
    (s.context = none → exec .sweepComplete s = .next s.grant) ∧
    ∀ n c, s.engine.bank = some n → s.context = some c → s.engine.state = .firing →
      c.settings.shotCount ≤ c.accepted → c.settings.shotCount ≤ (s.bank c.bank).accepted →
      ∃ t : State, exec .sweepComplete s = .next t.grant ∧
        t.bank n = { s.bank n with state := .full } ∧ t.bank (otherBank n) = s.bank (otherBank n) ∧
        t.banks.ready = s.banks.ready ++ [n] ∧
        t.engine =
          { s.engine with
            state := if t.sourceExists = true then .waiting else .idle, bank := none, outcome := none } ∧
        (s.window.state ≠ .closing → t.window = s.window ∧ t.reports = s.reports ∧ t.notices = s.notices) ∧
        (s.window.state = .closing → t.window = { s.window with state := .closed, grace := .stopped } ∧
          t.reports = s.reports.edged
            (.windowEdge .closed (s.window.closeCause.getD .matched) s.window.time s.window.integrity) ∧
          NoticesGain s t [.windowEdge]) ∧
        t.banks.retainSlot = s.banks.retainSlot ∧ t.banks.holdLimit = s.banks.holdLimit ∧
        t =
          { s with
            banks := t.banks, engine := t.engine, window := t.window, reports := t.reports, notices := t.notices }

/-- CLOSING_ACTIONS (R55, R56): with an outcome decided and no shot outstanding the bank is FREE, one SPAN_RESULT follows the
records held, the reservation of 9 ends, the engine holds no sweep and chooses, and a CONFIRM or ESCALATE sweep that was
not pre-empted is given back to the re-check queue: refused, updated in its place, dropped with RECHECK_FULL, or joined at
the tail (R56, R147). The end is counted in the sweep's cycle (R12), an ENDING cycle with no sweep left puts its CYCLE_END
(R13), a CLOSING window becomes CLOSED (R32), and nothing but these two records follows. While a shot is outstanding, nothing
but the arbiter's grant. That these actions are a step of their own is log 1, the freed bank's kept flag and count log 17,
that the slots are released before the two records look for theirs log 26, the order of the two log 7, and the edge of a
window without a recorded cause log 19: the model's choices. -/
def Obligations.ClosingActionsEndTheSweep : Prop :=
  ∀ s : State,
    (s.engine.state ≠ .draining ∨ s.port.outstanding ≠ [] → exec .closingActions s = .next s.grant) ∧
    ∀ n c o, s.engine.state = .draining → s.engine.bank = some n → s.engine.outcome = some o → s.context = some c →
      s.port.outstanding = [] → ∃ t : State, exec .closingActions s = .next t.grant ∧ Closes s t n c o

/-! ### The analyser -/

/-- ANALYSIS_TAKING (R83, R116, R118): an IDLE analyser takes the head of the ready list; the record holds copies of the
context, the accepted-shot count, the profile and the baseline slot, and the mode of the first row of R118 that applies.
A BUSY analyser, or an empty list, leaves everything as it is; so does a head that is neither FULL nor waiting for a
reanalysis, which no run reaches (log 19). That the taking is a step of its own is log 1. -/
def Obligations.AnalysisTakingMakesTheRecord : Prop :=
  ∀ s : State, ∃ t, exec .analysisTaking s = .next t ∧ TakesReady s t

/-- ANALYSIS_COMPLETION (R131, R84, R110, R136 to R143): the bank is HELD with its hold timer started, the retain slot emptied
and TRACE_READY raised, or FREE; the condition unit rules on the result by its outcome; SPAN_RESULT and FINDING records
follow the records held, the reservation of 9 ends, and the end is counted in the sweep's cycle, whose CYCLE_END may follow
(R12, R13) and nothing else; the analyser takes the next ready bank. Without a sweep's analysis, nothing but the arbiter's
grant. The analysis itself, of any record and trace: the measured end is the least run of P low bins from the launch bin used
(R120), the break test (R121), the escalation of a FADE (R122), the lists (R129), the outcome (R130). That the slots are
released before CYCLE_END looks for its own is log 26, the freed bank's kept flag and count log 17, that no bin sum changes
while the analysis runs, so that it is computed at its end, log 15: the model's choices. -/
def Obligations.AnalysisCompletionReportsTheSweep : Prop :=
  (∀ s : State,
    (s.analyser.record = none → exec .analysisCompletion s = .next s.grant) ∧
    (∀ r, s.analyser.record = some r → r.kind = .reanalysis → exec .analysisCompletion s = .next s.grant) ∧
    ∀ r, s.analyser.record = some r → r.kind = .sweep →
      let trace : Trace :=
        { sums := (s.bank r.bank).sums, accepted := r.accepted, bins := r.context.settings.binCount }
      let m := trace.measuredEnd r.profile r.launchUsed
      let c := r.context
      let b := s.bank r.bank
      let kept := c.retain = true ∧ (s.bank (otherBank r.bank)).held = false
      ∃ (u t : State) (x : Ruling) (ends : List Record) (freed : List NoticeKind),
        exec .analysisCompletion s = .next t.grant ∧ TakesReady u t ∧ Rules s r (r.analyse trace) m x ∧
        EndCounted s.plan u.plan c.cycle c.countedAs ends ∧
        u.reports = (s.reports.worked
          (.spanResult
            { span := c.span, reason := .sweep c.reason, outcome := .analysis x.outcome, cls := c.cls,
              accepted := c.accepted, rejected := c.rejected, lost := c.lost, measuredEnd := some m,
              findingCount := x.list.findings.length, more := x.list.more,
              retained := c.retain && !(s.bank (otherBank r.bank)).held, before := (s.condition c.span).state,
              after := x.entry.state, cause := x.cause, cycle := c.cycle, endTime := s.window.time } ::
            findingRecords c.span 1 x.list.findings)).edgedAll ends ∧
        u.conditions = { entries := tableSet s.conditions.entries c.span x.entry, recheck := x.recheck } ∧
        (kept → freed = [.traceReady] ∧
          u.bank r.bank = { b with state := .held, reanalysis := .idle, hold := .running s.banks.holdLimit,
                                   exporting := none } ∧
          u.banks.retainSlot = none) ∧
        (¬kept → freed = (if b.hold = .expired then [.holdExpired] else []) ∧ u.bank r.bank = b.released ∧
          u.banks.retainSlot = s.banks.retainSlot) ∧
        u.bank (otherBank r.bank) = s.bank (otherBank r.bank) ∧ u.banks.ready = s.banks.ready ∧
        u.banks.holdLimit = s.banks.holdLimit ∧
        NoticesGain s u (x.kinds ++ freed ++ if ends = [] then [] else [.cycleDone]) ∧ Chosen s u ∧
        u =
          { s with
            plan := u.plan, engine := u.engine, banks := u.banks, analyser := { s.analyser with record := none },
            conditions := u.conditions, reports := u.reports, notices := u.notices }) ∧
  (∀ (t : Trace) (p : Profile) (launch : Nat),
    let m := t.measuredEnd p launch
    let low (b : Nat) : Prop := b + p.persistence ≤ t.bins ∧ ∀ j, j < p.persistence → t.level (b + j) ≤ p.floor
    (t.bins ≤ launch → m = t.bins) ∧
    (launch < t.bins → launch ≤ m ∧ m ≤ t.bins ∧ (m < t.bins → low m) ∧ ∀ b, launch ≤ b → b < m → ¬low b)) ∧
  (∀ (t : Trace) (p : Profile) (launch e m : Nat),
    let falls := (p.breakDrop : Int) ≤ (t.level (max launch (m - p.stepGap)) : Int) - t.level m
    t.breakTest p launch e m =
      if (e : Int) - m ≤ p.tolerance then .reached
      else if m = t.bins then .unreached
      else if m = launch then .broken
      else if falls then .broken
      else .fade) ∧
  ∀ (r : AnalysisRecord) (t : Trace),
    let m := t.measuredEnd r.profile r.launchUsed
    let escalated := r.kind = .sweep ∧ r.context.cls < r.context.settings.maxClass
    let none_ : FindingList := { findings := [], more := false }
    (r.mode = .endOnly ∨ r.snapshot.record = none → r.analyse t = (.endOnly, none_, none)) ∧
    ∀ b, r.mode ≠ .endOnly → r.snapshot.record = some b →
      let scan := if r.mode = .full then t.scanFindings r.profile b m else []
      let ended (k : FindingKind) : FindingList :=
        { findings := scan.take 7 ++ [{ kind := k, location := m, excess := 0, zone := none, status := .new }]
          more := decide (7 < scan.length) }
      r.analyse t =
        match t.breakTest r.profile r.launchUsed b.endBin m with
        | .reached => (.analysed, { findings := scan.take 7, more := decide (7 < scan.length) }, none)
        | .unreached => (.analysed, ended .unreached, none)
        | .broken => (.analysed, ended .fibreBreak, none)
        | .fade =>
          if escalated then (.escalated, none_, some (ended .unreached)) else (.analysed, ended .unreached, none)

/-- REANALYSIS_COMPLETION (R92, R132): the SPAN_RESULT and the FINDING records of the reanalysis follow the records held, and
are all; the reservation of 9 ends; the bank goes back to HELD, or to FREE when release-pending is yes; conditions,
re-check queue and cycles stay; the analyser takes the next ready bank. Without a reanalysis, nothing but the arbiter's
grant. The deviation scan of a trace under a baseline whose end bins rise: zones are placed from the launch bin on (R97), the
expected level is the straight line truncated toward zero (R123), a bin is in a gate when some landmark's gate, clipped to
the scan range, holds it (R125), the gate is the whole run of such bins with its first tested landmark (R126), and the scan
makes the findings of R124, R126 and R127. The freed bank's kept flag and count are the model's choice (log 17). -/
def Obligations.ReanalysisCompletionReportsTheTrace : Prop :=
  (∀ s : State,
    (s.analyser.record = none → exec .reanalysisCompletion s = .next s.grant) ∧
    (∀ r, s.analyser.record = some r → r.kind = .sweep → exec .reanalysisCompletion s = .next s.grant) ∧
    ∀ r, s.analyser.record = some r → r.kind = .reanalysis →
      let trace : Trace :=
        { sums := (s.bank r.bank).sums, accepted := r.accepted, bins := r.context.settings.binCount }
      let found := r.analyse trace
      let sp := r.context.span
      let b := s.bank r.bank
      ∃ (u t : State) (freed : List NoticeKind), exec .reanalysisCompletion s = .next t.grant ∧ TakesReady u t ∧
        u.reports = s.reports.worked
          (.spanResult
            { span := sp, reason := .reanalysis, outcome := .analysis found.1, cls := r.context.cls,
              accepted := r.context.accepted, rejected := r.context.rejected, lost := r.context.lost,
              measuredEnd := some (trace.measuredEnd r.profile r.launchUsed),
              findingCount := found.2.1.findings.length, more := found.2.1.more, retained := true,
              before := (s.condition sp).state, after := (s.condition sp).state, cause := none, cycle := none,
              endTime := s.window.time } :: findingRecords sp 1 found.2.1.findings) ∧
        (b.releasePending = false → freed = [] ∧
          u.bank r.bank = { b with state := .held, reanalysis := .idle, exporting := none }) ∧
        (b.releasePending = true → freed = (if b.hold = .expired then [.holdExpired] else []) ∧
          u.bank r.bank = b.released) ∧
        u.bank (otherBank r.bank) = s.bank (otherBank r.bank) ∧
        u.banks = { s.banks with a := u.banks.a, b := u.banks.b } ∧ NoticesGain s u freed ∧ Chosen s u ∧
        u =
          { s with
            engine := u.engine, banks := u.banks, analyser := { s.analyser with record := none },
            reports := u.reports, notices := u.notices }) ∧
  (∀ (b : Baseline) (k : Nat) (z : Zone), b.zones[k]? = some z →
    ∃ placed, b.placed[k]? = some placed ∧ placed.zone = z ∧ placed.index = k + 1 ∧
      (k = 0 → placed.start = b.launch) ∧
      ∀ y, 0 < k → b.zones[k - 1]? = some y → placed.start = y.endBin + 1) ∧
  (∀ (t : Trace) (b : Baseline) (z : PlacedZone) (x : Nat), b.Rising → z ∈ b.placed → z.start ≤ x →
    x ≤ z.zone.endBin → t.deviation b.placed x = z.expected x - t.level x ∧
      (z.zone.endBin = z.start → z.expected x = z.zone.startLevel) ∧
      (z.start < z.zone.endBin → z.zone.startLevel ≤ z.zone.endLevel → z.expected x =
        z.zone.startLevel + (z.zone.endLevel - z.zone.startLevel) * (x - z.start) / (z.zone.endBin - z.start)) ∧
      (z.start < z.zone.endBin → z.zone.endLevel ≤ z.zone.startLevel → z.expected x = (z.zone.startLevel : Int) -
        ((z.zone.startLevel - z.zone.endLevel) * (x - z.start) / (z.zone.endBin - z.start) : Nat))) ∧
  (∀ (b : Baseline) (p : Profile) (lo hi x : Nat), b.Rising →
    (gateAt (gatesFor p lo hi b.placed) x = none → ¬Gated b p lo hi x) ∧
    ∀ g, gateAt (gatesFor p lo hi b.placed) x = some g →
      g.first ≤ x ∧ x ≤ g.last ∧ (∀ y, g.first ≤ y → y ≤ g.last → Gated b p lo hi y) ∧
      ¬Gated b p lo hi (g.last + 1) ∧ (0 < g.first → ¬Gated b p lo hi (g.first - 1)) ∧
      g.tested = ((b.landmarks.find? fun l => decide (g.first ≤ l.1 ∧ l.1 ≤ g.last)).map fun l => (l.1, l.2.1))) ∧
  ∀ (t : Trace) (p : Profile) (b : Baseline) (m : Nat),
    let stop := min m b.endBin
    (stop ≤ b.launch → t.scanFindings p b m = []) ∧
    (b.launch < stop → 1 ≤ p.persistence →
      Scans (t.deviation b.placed) (gateAt (gatesFor p b.launch (stop - 1) b.placed)) (stop - 1) p b.launch
        (t.deviation b.placed b.launch) (t.scanFindings p b m))

/-! ### Laws that every step keeps -/

/-- The pool of zone records, the ports of the enabled entries and the live sets of the groups keep their laws (R98, R1,
R15). -/
def Obligations.EveryStepKeepsTheTableLaws : Prop :=
  ∀ s t : State, s.PoolLaw ∧ s.PortsLaw ∧ s.LiveLaw → step s = .next t → t.PoolLaw ∧ t.PortsLaw ∧ t.LiveLaw

/-- The intake FIFO never overflows, and at most two shots are outstanding (R66, R67). -/
def Obligations.EveryStepKeepsTheIntakeLaw : Prop :=
  ∀ s t : State, s.IntakeLaw → step s = .next t → t.IntakeLaw

/-- The re-check queue and the condition entries keep their laws (R146, R134, R110). -/
def Obligations.EveryStepKeepsTheConditionLaws : Prop :=
  ∀ s t : State, s.RecheckLaw ∧ s.ConditionLaw ∧ s.FaultedLaw → step s = .next t →
    t.RecheckLaw ∧ t.ConditionLaw ∧ t.FaultedLaw

/-- An ACTIVE cycle always belongs to an OPEN window (R10). -/
def Obligations.EveryStepKeepsTheCycleLaw : Prop :=
  ∀ s t : State, s.CycleLaw → step s = .next t → t.CycleLaw

/-- Report-queue occupancy plus outstanding reservations never exceeds 128 (R151, R153). -/
def Obligations.EveryStepKeepsTheSlotsLaw : Prop :=
  ∀ s t : State, s.SlotsLaw → step s = .next t → t.SlotsLaw

/-- The command queue holds at most 4 frames (R168), and the bin sums keep their canonical form. -/
def Obligations.EveryStepKeepsTheFormLaws : Prop :=
  ∀ s t : State, s.QueueLaw ∧ s.SumsLaw → step s = .next t → t.QueueLaw ∧ t.SumsLaw
end

