-- ==== Sys2Proof/Laws/State.lean ====
section
/-! SUPPORT. One lemma per field and update of State: an update writes its own block and leaves every other one. -/

namespace Sys2Proof.Machine

@[simp] theorem State.withPlan_plan (s : State) (x : Plan) : (s.withPlan x).plan = x := rfl
@[simp] theorem State.withPlan_window (s : State) (x : Plan) : (s.withPlan x).window = s.window := rfl
@[simp] theorem State.withPlan_engine (s : State) (x : Plan) : (s.withPlan x).engine = s.engine := rfl
@[simp] theorem State.withPlan_port (s : State) (x : Plan) : (s.withPlan x).port = s.port := rfl
@[simp] theorem State.withPlan_banks (s : State) (x : Plan) : (s.withPlan x).banks = s.banks := rfl
@[simp] theorem State.withPlan_baselines (s : State) (x : Plan) : (s.withPlan x).baselines = s.baselines := rfl
@[simp] theorem State.withPlan_analyser (s : State) (x : Plan) : (s.withPlan x).analyser = s.analyser := rfl
@[simp] theorem State.withPlan_conditions (s : State) (x : Plan) : (s.withPlan x).conditions = s.conditions := rfl
@[simp] theorem State.withPlan_reports (s : State) (x : Plan) : (s.withPlan x).reports = s.reports := rfl
@[simp] theorem State.withPlan_notices (s : State) (x : Plan) : (s.withPlan x).notices = s.notices := rfl
@[simp] theorem State.withPlan_link (s : State) (x : Plan) : (s.withPlan x).link = s.link := rfl
@[simp] theorem State.withPlan_outputs (s : State) (x : Plan) : (s.withPlan x).outputs = s.outputs := rfl
@[simp] theorem State.withPlan_freeCount (s : State) (x : Plan) : (s.withPlan x).freeCount = s.freeCount := rfl
@[simp] theorem State.withPlan_pending (s : State) (x : Plan) : (s.withPlan x).pending = s.pending := rfl

@[simp] theorem State.withWindow_plan (s : State) (x : Window) : (s.withWindow x).plan = s.plan := rfl
@[simp] theorem State.withWindow_window (s : State) (x : Window) : (s.withWindow x).window = x := rfl
@[simp] theorem State.withWindow_engine (s : State) (x : Window) : (s.withWindow x).engine = s.engine := rfl
@[simp] theorem State.withWindow_port (s : State) (x : Window) : (s.withWindow x).port = s.port := rfl
@[simp] theorem State.withWindow_banks (s : State) (x : Window) : (s.withWindow x).banks = s.banks := rfl
@[simp] theorem State.withWindow_baselines (s : State) (x : Window) : (s.withWindow x).baselines = s.baselines := rfl
@[simp] theorem State.withWindow_analyser (s : State) (x : Window) : (s.withWindow x).analyser = s.analyser := rfl
@[simp] theorem State.withWindow_conditions (s : State) (x : Window) : (s.withWindow x).conditions = s.conditions := rfl
@[simp] theorem State.withWindow_reports (s : State) (x : Window) : (s.withWindow x).reports = s.reports := rfl
@[simp] theorem State.withWindow_notices (s : State) (x : Window) : (s.withWindow x).notices = s.notices := rfl
@[simp] theorem State.withWindow_link (s : State) (x : Window) : (s.withWindow x).link = s.link := rfl
@[simp] theorem State.withWindow_outputs (s : State) (x : Window) : (s.withWindow x).outputs = s.outputs := rfl
@[simp] theorem State.withWindow_freeCount (s : State) (x : Window) : (s.withWindow x).freeCount = s.freeCount := rfl
@[simp] theorem State.withWindow_pending (s : State) (x : Window) : (s.withWindow x).pending = s.pending := rfl

@[simp] theorem State.withEngine_plan (s : State) (x : Engine) : (s.withEngine x).plan = s.plan := rfl
@[simp] theorem State.withEngine_window (s : State) (x : Engine) : (s.withEngine x).window = s.window := rfl
@[simp] theorem State.withEngine_engine (s : State) (x : Engine) : (s.withEngine x).engine = x := rfl
@[simp] theorem State.withEngine_port (s : State) (x : Engine) : (s.withEngine x).port = s.port := rfl
@[simp] theorem State.withEngine_banks (s : State) (x : Engine) : (s.withEngine x).banks = s.banks := rfl
@[simp] theorem State.withEngine_baselines (s : State) (x : Engine) : (s.withEngine x).baselines = s.baselines := rfl
@[simp] theorem State.withEngine_analyser (s : State) (x : Engine) : (s.withEngine x).analyser = s.analyser := rfl
@[simp] theorem State.withEngine_conditions (s : State) (x : Engine) : (s.withEngine x).conditions = s.conditions := rfl
@[simp] theorem State.withEngine_reports (s : State) (x : Engine) : (s.withEngine x).reports = s.reports := rfl
@[simp] theorem State.withEngine_notices (s : State) (x : Engine) : (s.withEngine x).notices = s.notices := rfl
@[simp] theorem State.withEngine_link (s : State) (x : Engine) : (s.withEngine x).link = s.link := rfl
@[simp] theorem State.withEngine_outputs (s : State) (x : Engine) : (s.withEngine x).outputs = s.outputs := rfl
@[simp] theorem State.withEngine_freeCount (s : State) (x : Engine) : (s.withEngine x).freeCount = s.freeCount := rfl
@[simp] theorem State.withEngine_pending (s : State) (x : Engine) : (s.withEngine x).pending = s.pending := rfl

@[simp] theorem State.withPort_plan (s : State) (x : Port) : (s.withPort x).plan = s.plan := rfl
@[simp] theorem State.withPort_window (s : State) (x : Port) : (s.withPort x).window = s.window := rfl
@[simp] theorem State.withPort_engine (s : State) (x : Port) : (s.withPort x).engine = s.engine := rfl
@[simp] theorem State.withPort_port (s : State) (x : Port) : (s.withPort x).port = x := rfl
@[simp] theorem State.withPort_banks (s : State) (x : Port) : (s.withPort x).banks = s.banks := rfl
@[simp] theorem State.withPort_baselines (s : State) (x : Port) : (s.withPort x).baselines = s.baselines := rfl
@[simp] theorem State.withPort_analyser (s : State) (x : Port) : (s.withPort x).analyser = s.analyser := rfl
@[simp] theorem State.withPort_conditions (s : State) (x : Port) : (s.withPort x).conditions = s.conditions := rfl
@[simp] theorem State.withPort_reports (s : State) (x : Port) : (s.withPort x).reports = s.reports := rfl
@[simp] theorem State.withPort_notices (s : State) (x : Port) : (s.withPort x).notices = s.notices := rfl
@[simp] theorem State.withPort_link (s : State) (x : Port) : (s.withPort x).link = s.link := rfl
@[simp] theorem State.withPort_outputs (s : State) (x : Port) : (s.withPort x).outputs = s.outputs := rfl
@[simp] theorem State.withPort_freeCount (s : State) (x : Port) : (s.withPort x).freeCount = s.freeCount := rfl
@[simp] theorem State.withPort_pending (s : State) (x : Port) : (s.withPort x).pending = s.pending := rfl

@[simp] theorem State.withBanks_plan (s : State) (x : Banks) : (s.withBanks x).plan = s.plan := rfl
@[simp] theorem State.withBanks_window (s : State) (x : Banks) : (s.withBanks x).window = s.window := rfl
@[simp] theorem State.withBanks_engine (s : State) (x : Banks) : (s.withBanks x).engine = s.engine := rfl
@[simp] theorem State.withBanks_port (s : State) (x : Banks) : (s.withBanks x).port = s.port := rfl
@[simp] theorem State.withBanks_banks (s : State) (x : Banks) : (s.withBanks x).banks = x := rfl
@[simp] theorem State.withBanks_baselines (s : State) (x : Banks) : (s.withBanks x).baselines = s.baselines := rfl
@[simp] theorem State.withBanks_analyser (s : State) (x : Banks) : (s.withBanks x).analyser = s.analyser := rfl
@[simp] theorem State.withBanks_conditions (s : State) (x : Banks) : (s.withBanks x).conditions = s.conditions := rfl
@[simp] theorem State.withBanks_reports (s : State) (x : Banks) : (s.withBanks x).reports = s.reports := rfl
@[simp] theorem State.withBanks_notices (s : State) (x : Banks) : (s.withBanks x).notices = s.notices := rfl
@[simp] theorem State.withBanks_link (s : State) (x : Banks) : (s.withBanks x).link = s.link := rfl
@[simp] theorem State.withBanks_outputs (s : State) (x : Banks) : (s.withBanks x).outputs = s.outputs := rfl
@[simp] theorem State.withBanks_freeCount (s : State) (x : Banks) : (s.withBanks x).freeCount = s.freeCount := rfl
@[simp] theorem State.withBanks_pending (s : State) (x : Banks) : (s.withBanks x).pending = s.pending := rfl

@[simp] theorem State.withBaselines_plan (s : State) (x : Baselines) : (s.withBaselines x).plan = s.plan := rfl
@[simp] theorem State.withBaselines_window (s : State) (x : Baselines) : (s.withBaselines x).window = s.window := rfl
@[simp] theorem State.withBaselines_engine (s : State) (x : Baselines) : (s.withBaselines x).engine = s.engine := rfl
@[simp] theorem State.withBaselines_port (s : State) (x : Baselines) : (s.withBaselines x).port = s.port := rfl
@[simp] theorem State.withBaselines_banks (s : State) (x : Baselines) : (s.withBaselines x).banks = s.banks := rfl
@[simp] theorem State.withBaselines_baselines (s : State) (x : Baselines) : (s.withBaselines x).baselines = x := rfl
@[simp] theorem State.withBaselines_analyser (s : State) (x : Baselines) : (s.withBaselines x).analyser = s.analyser := rfl
@[simp] theorem State.withBaselines_conditions (s : State) (x : Baselines) : (s.withBaselines x).conditions = s.conditions := rfl
@[simp] theorem State.withBaselines_reports (s : State) (x : Baselines) : (s.withBaselines x).reports = s.reports := rfl
@[simp] theorem State.withBaselines_notices (s : State) (x : Baselines) : (s.withBaselines x).notices = s.notices := rfl
@[simp] theorem State.withBaselines_link (s : State) (x : Baselines) : (s.withBaselines x).link = s.link := rfl
@[simp] theorem State.withBaselines_outputs (s : State) (x : Baselines) : (s.withBaselines x).outputs = s.outputs := rfl
@[simp] theorem State.withBaselines_freeCount (s : State) (x : Baselines) : (s.withBaselines x).freeCount = s.freeCount := rfl
@[simp] theorem State.withBaselines_pending (s : State) (x : Baselines) : (s.withBaselines x).pending = s.pending := rfl

@[simp] theorem State.withAnalyser_plan (s : State) (x : Analyser) : (s.withAnalyser x).plan = s.plan := rfl
@[simp] theorem State.withAnalyser_window (s : State) (x : Analyser) : (s.withAnalyser x).window = s.window := rfl
@[simp] theorem State.withAnalyser_engine (s : State) (x : Analyser) : (s.withAnalyser x).engine = s.engine := rfl
@[simp] theorem State.withAnalyser_port (s : State) (x : Analyser) : (s.withAnalyser x).port = s.port := rfl
@[simp] theorem State.withAnalyser_banks (s : State) (x : Analyser) : (s.withAnalyser x).banks = s.banks := rfl
@[simp] theorem State.withAnalyser_baselines (s : State) (x : Analyser) : (s.withAnalyser x).baselines = s.baselines := rfl
@[simp] theorem State.withAnalyser_analyser (s : State) (x : Analyser) : (s.withAnalyser x).analyser = x := rfl
@[simp] theorem State.withAnalyser_conditions (s : State) (x : Analyser) : (s.withAnalyser x).conditions = s.conditions := rfl
@[simp] theorem State.withAnalyser_reports (s : State) (x : Analyser) : (s.withAnalyser x).reports = s.reports := rfl
@[simp] theorem State.withAnalyser_notices (s : State) (x : Analyser) : (s.withAnalyser x).notices = s.notices := rfl
@[simp] theorem State.withAnalyser_link (s : State) (x : Analyser) : (s.withAnalyser x).link = s.link := rfl
@[simp] theorem State.withAnalyser_outputs (s : State) (x : Analyser) : (s.withAnalyser x).outputs = s.outputs := rfl
@[simp] theorem State.withAnalyser_freeCount (s : State) (x : Analyser) : (s.withAnalyser x).freeCount = s.freeCount := rfl
@[simp] theorem State.withAnalyser_pending (s : State) (x : Analyser) : (s.withAnalyser x).pending = s.pending := rfl

@[simp] theorem State.withConditions_plan (s : State) (x : Conditions) : (s.withConditions x).plan = s.plan := rfl
@[simp] theorem State.withConditions_window (s : State) (x : Conditions) : (s.withConditions x).window = s.window := rfl
@[simp] theorem State.withConditions_engine (s : State) (x : Conditions) : (s.withConditions x).engine = s.engine := rfl
@[simp] theorem State.withConditions_port (s : State) (x : Conditions) : (s.withConditions x).port = s.port := rfl
@[simp] theorem State.withConditions_banks (s : State) (x : Conditions) : (s.withConditions x).banks = s.banks := rfl
@[simp] theorem State.withConditions_baselines (s : State) (x : Conditions) : (s.withConditions x).baselines = s.baselines := rfl
@[simp] theorem State.withConditions_analyser (s : State) (x : Conditions) : (s.withConditions x).analyser = s.analyser := rfl
@[simp] theorem State.withConditions_conditions (s : State) (x : Conditions) : (s.withConditions x).conditions = x := rfl
@[simp] theorem State.withConditions_reports (s : State) (x : Conditions) : (s.withConditions x).reports = s.reports := rfl
@[simp] theorem State.withConditions_notices (s : State) (x : Conditions) : (s.withConditions x).notices = s.notices := rfl
@[simp] theorem State.withConditions_link (s : State) (x : Conditions) : (s.withConditions x).link = s.link := rfl
@[simp] theorem State.withConditions_outputs (s : State) (x : Conditions) : (s.withConditions x).outputs = s.outputs := rfl
@[simp] theorem State.withConditions_freeCount (s : State) (x : Conditions) : (s.withConditions x).freeCount = s.freeCount := rfl
@[simp] theorem State.withConditions_pending (s : State) (x : Conditions) : (s.withConditions x).pending = s.pending := rfl

@[simp] theorem State.withReports_plan (s : State) (x : Reports) : (s.withReports x).plan = s.plan := rfl
@[simp] theorem State.withReports_window (s : State) (x : Reports) : (s.withReports x).window = s.window := rfl
@[simp] theorem State.withReports_engine (s : State) (x : Reports) : (s.withReports x).engine = s.engine := rfl
@[simp] theorem State.withReports_port (s : State) (x : Reports) : (s.withReports x).port = s.port := rfl
@[simp] theorem State.withReports_banks (s : State) (x : Reports) : (s.withReports x).banks = s.banks := rfl
@[simp] theorem State.withReports_baselines (s : State) (x : Reports) : (s.withReports x).baselines = s.baselines := rfl
@[simp] theorem State.withReports_analyser (s : State) (x : Reports) : (s.withReports x).analyser = s.analyser := rfl
@[simp] theorem State.withReports_conditions (s : State) (x : Reports) : (s.withReports x).conditions = s.conditions := rfl
@[simp] theorem State.withReports_reports (s : State) (x : Reports) : (s.withReports x).reports = x := rfl
@[simp] theorem State.withReports_notices (s : State) (x : Reports) : (s.withReports x).notices = s.notices := rfl
@[simp] theorem State.withReports_link (s : State) (x : Reports) : (s.withReports x).link = s.link := rfl
@[simp] theorem State.withReports_outputs (s : State) (x : Reports) : (s.withReports x).outputs = s.outputs := rfl
@[simp] theorem State.withReports_freeCount (s : State) (x : Reports) : (s.withReports x).freeCount = s.freeCount := rfl
@[simp] theorem State.withReports_pending (s : State) (x : Reports) : (s.withReports x).pending = s.pending := rfl

@[simp] theorem State.withNotices_plan (s : State) (x : Notices) : (s.withNotices x).plan = s.plan := rfl
@[simp] theorem State.withNotices_window (s : State) (x : Notices) : (s.withNotices x).window = s.window := rfl
@[simp] theorem State.withNotices_engine (s : State) (x : Notices) : (s.withNotices x).engine = s.engine := rfl
@[simp] theorem State.withNotices_port (s : State) (x : Notices) : (s.withNotices x).port = s.port := rfl
@[simp] theorem State.withNotices_banks (s : State) (x : Notices) : (s.withNotices x).banks = s.banks := rfl
@[simp] theorem State.withNotices_baselines (s : State) (x : Notices) : (s.withNotices x).baselines = s.baselines := rfl
@[simp] theorem State.withNotices_analyser (s : State) (x : Notices) : (s.withNotices x).analyser = s.analyser := rfl
@[simp] theorem State.withNotices_conditions (s : State) (x : Notices) : (s.withNotices x).conditions = s.conditions := rfl
@[simp] theorem State.withNotices_reports (s : State) (x : Notices) : (s.withNotices x).reports = s.reports := rfl
@[simp] theorem State.withNotices_notices (s : State) (x : Notices) : (s.withNotices x).notices = x := rfl
@[simp] theorem State.withNotices_link (s : State) (x : Notices) : (s.withNotices x).link = s.link := rfl
@[simp] theorem State.withNotices_outputs (s : State) (x : Notices) : (s.withNotices x).outputs = s.outputs := rfl
@[simp] theorem State.withNotices_freeCount (s : State) (x : Notices) : (s.withNotices x).freeCount = s.freeCount := rfl
@[simp] theorem State.withNotices_pending (s : State) (x : Notices) : (s.withNotices x).pending = s.pending := rfl

@[simp] theorem State.withLink_plan (s : State) (x : Link) : (s.withLink x).plan = s.plan := rfl
@[simp] theorem State.withLink_window (s : State) (x : Link) : (s.withLink x).window = s.window := rfl
@[simp] theorem State.withLink_engine (s : State) (x : Link) : (s.withLink x).engine = s.engine := rfl
@[simp] theorem State.withLink_port (s : State) (x : Link) : (s.withLink x).port = s.port := rfl
@[simp] theorem State.withLink_banks (s : State) (x : Link) : (s.withLink x).banks = s.banks := rfl
@[simp] theorem State.withLink_baselines (s : State) (x : Link) : (s.withLink x).baselines = s.baselines := rfl
@[simp] theorem State.withLink_analyser (s : State) (x : Link) : (s.withLink x).analyser = s.analyser := rfl
@[simp] theorem State.withLink_conditions (s : State) (x : Link) : (s.withLink x).conditions = s.conditions := rfl
@[simp] theorem State.withLink_reports (s : State) (x : Link) : (s.withLink x).reports = s.reports := rfl
@[simp] theorem State.withLink_notices (s : State) (x : Link) : (s.withLink x).notices = s.notices := rfl
@[simp] theorem State.withLink_link (s : State) (x : Link) : (s.withLink x).link = x := rfl
@[simp] theorem State.withLink_outputs (s : State) (x : Link) : (s.withLink x).outputs = s.outputs := rfl
@[simp] theorem State.withLink_freeCount (s : State) (x : Link) : (s.withLink x).freeCount = s.freeCount := rfl
@[simp] theorem State.withLink_pending (s : State) (x : Link) : (s.withLink x).pending = s.pending := rfl

@[simp] theorem State.withOutputs_plan (s : State) (x : Outputs) : (s.withOutputs x).plan = s.plan := rfl
@[simp] theorem State.withOutputs_window (s : State) (x : Outputs) : (s.withOutputs x).window = s.window := rfl
@[simp] theorem State.withOutputs_engine (s : State) (x : Outputs) : (s.withOutputs x).engine = s.engine := rfl
@[simp] theorem State.withOutputs_port (s : State) (x : Outputs) : (s.withOutputs x).port = s.port := rfl
@[simp] theorem State.withOutputs_banks (s : State) (x : Outputs) : (s.withOutputs x).banks = s.banks := rfl
@[simp] theorem State.withOutputs_baselines (s : State) (x : Outputs) : (s.withOutputs x).baselines = s.baselines := rfl
@[simp] theorem State.withOutputs_analyser (s : State) (x : Outputs) : (s.withOutputs x).analyser = s.analyser := rfl
@[simp] theorem State.withOutputs_conditions (s : State) (x : Outputs) : (s.withOutputs x).conditions = s.conditions := rfl
@[simp] theorem State.withOutputs_reports (s : State) (x : Outputs) : (s.withOutputs x).reports = s.reports := rfl
@[simp] theorem State.withOutputs_notices (s : State) (x : Outputs) : (s.withOutputs x).notices = s.notices := rfl
@[simp] theorem State.withOutputs_link (s : State) (x : Outputs) : (s.withOutputs x).link = s.link := rfl
@[simp] theorem State.withOutputs_outputs (s : State) (x : Outputs) : (s.withOutputs x).outputs = x := rfl
@[simp] theorem State.withOutputs_freeCount (s : State) (x : Outputs) : (s.withOutputs x).freeCount = s.freeCount := rfl
@[simp] theorem State.withOutputs_pending (s : State) (x : Outputs) : (s.withOutputs x).pending = s.pending := rfl

@[simp] theorem State.withFreeCount_plan (s : State) (x : Nat) : (s.withFreeCount x).plan = s.plan := rfl
@[simp] theorem State.withFreeCount_window (s : State) (x : Nat) : (s.withFreeCount x).window = s.window := rfl
@[simp] theorem State.withFreeCount_engine (s : State) (x : Nat) : (s.withFreeCount x).engine = s.engine := rfl
@[simp] theorem State.withFreeCount_port (s : State) (x : Nat) : (s.withFreeCount x).port = s.port := rfl
@[simp] theorem State.withFreeCount_banks (s : State) (x : Nat) : (s.withFreeCount x).banks = s.banks := rfl
@[simp] theorem State.withFreeCount_baselines (s : State) (x : Nat) : (s.withFreeCount x).baselines = s.baselines := rfl
@[simp] theorem State.withFreeCount_analyser (s : State) (x : Nat) : (s.withFreeCount x).analyser = s.analyser := rfl
@[simp] theorem State.withFreeCount_conditions (s : State) (x : Nat) : (s.withFreeCount x).conditions = s.conditions := rfl
@[simp] theorem State.withFreeCount_reports (s : State) (x : Nat) : (s.withFreeCount x).reports = s.reports := rfl
@[simp] theorem State.withFreeCount_notices (s : State) (x : Nat) : (s.withFreeCount x).notices = s.notices := rfl
@[simp] theorem State.withFreeCount_link (s : State) (x : Nat) : (s.withFreeCount x).link = s.link := rfl
@[simp] theorem State.withFreeCount_outputs (s : State) (x : Nat) : (s.withFreeCount x).outputs = s.outputs := rfl
@[simp] theorem State.withFreeCount_freeCount (s : State) (x : Nat) : (s.withFreeCount x).freeCount = x := rfl
@[simp] theorem State.withFreeCount_pending (s : State) (x : Nat) : (s.withFreeCount x).pending = s.pending := rfl

@[simp] theorem State.withPending_plan (s : State) (x : List Instr) : (s.withPending x).plan = s.plan := rfl
@[simp] theorem State.withPending_window (s : State) (x : List Instr) : (s.withPending x).window = s.window := rfl
@[simp] theorem State.withPending_engine (s : State) (x : List Instr) : (s.withPending x).engine = s.engine := rfl
@[simp] theorem State.withPending_port (s : State) (x : List Instr) : (s.withPending x).port = s.port := rfl
@[simp] theorem State.withPending_banks (s : State) (x : List Instr) : (s.withPending x).banks = s.banks := rfl
@[simp] theorem State.withPending_baselines (s : State) (x : List Instr) : (s.withPending x).baselines = s.baselines := rfl
@[simp] theorem State.withPending_analyser (s : State) (x : List Instr) : (s.withPending x).analyser = s.analyser := rfl
@[simp] theorem State.withPending_conditions (s : State) (x : List Instr) : (s.withPending x).conditions = s.conditions := rfl
@[simp] theorem State.withPending_reports (s : State) (x : List Instr) : (s.withPending x).reports = s.reports := rfl
@[simp] theorem State.withPending_notices (s : State) (x : List Instr) : (s.withPending x).notices = s.notices := rfl
@[simp] theorem State.withPending_link (s : State) (x : List Instr) : (s.withPending x).link = s.link := rfl
@[simp] theorem State.withPending_outputs (s : State) (x : List Instr) : (s.withPending x).outputs = s.outputs := rfl
@[simp] theorem State.withPending_freeCount (s : State) (x : List Instr) : (s.withPending x).freeCount = s.freeCount := rfl
@[simp] theorem State.withPending_pending (s : State) (x : List Instr) : (s.withPending x).pending = x := rfl

@[simp] theorem State.withPlan_withPlan (s : State) (x y : Plan) : (s.withPlan x).withPlan y = s.withPlan y := rfl
@[simp] theorem State.withPlan_self (s : State) : s.withPlan s.plan = s := rfl
@[simp] theorem State.withWindow_withWindow (s : State) (x y : Window) : (s.withWindow x).withWindow y = s.withWindow y := rfl
@[simp] theorem State.withWindow_self (s : State) : s.withWindow s.window = s := rfl
@[simp] theorem State.withEngine_withEngine (s : State) (x y : Engine) : (s.withEngine x).withEngine y = s.withEngine y := rfl
@[simp] theorem State.withEngine_self (s : State) : s.withEngine s.engine = s := rfl
@[simp] theorem State.withPort_withPort (s : State) (x y : Port) : (s.withPort x).withPort y = s.withPort y := rfl
@[simp] theorem State.withPort_self (s : State) : s.withPort s.port = s := rfl
@[simp] theorem State.withBanks_withBanks (s : State) (x y : Banks) : (s.withBanks x).withBanks y = s.withBanks y := rfl
@[simp] theorem State.withBanks_self (s : State) : s.withBanks s.banks = s := rfl
@[simp] theorem State.withBaselines_withBaselines (s : State) (x y : Baselines) : (s.withBaselines x).withBaselines y = s.withBaselines y := rfl
@[simp] theorem State.withBaselines_self (s : State) : s.withBaselines s.baselines = s := rfl
@[simp] theorem State.withAnalyser_withAnalyser (s : State) (x y : Analyser) : (s.withAnalyser x).withAnalyser y = s.withAnalyser y := rfl
@[simp] theorem State.withAnalyser_self (s : State) : s.withAnalyser s.analyser = s := rfl
@[simp] theorem State.withConditions_withConditions (s : State) (x y : Conditions) : (s.withConditions x).withConditions y = s.withConditions y := rfl
@[simp] theorem State.withConditions_self (s : State) : s.withConditions s.conditions = s := rfl
@[simp] theorem State.withReports_withReports (s : State) (x y : Reports) : (s.withReports x).withReports y = s.withReports y := rfl
@[simp] theorem State.withReports_self (s : State) : s.withReports s.reports = s := rfl
@[simp] theorem State.withNotices_withNotices (s : State) (x y : Notices) : (s.withNotices x).withNotices y = s.withNotices y := rfl
@[simp] theorem State.withNotices_self (s : State) : s.withNotices s.notices = s := rfl
@[simp] theorem State.withLink_withLink (s : State) (x y : Link) : (s.withLink x).withLink y = s.withLink y := rfl
@[simp] theorem State.withLink_self (s : State) : s.withLink s.link = s := rfl
@[simp] theorem State.withOutputs_withOutputs (s : State) (x y : Outputs) : (s.withOutputs x).withOutputs y = s.withOutputs y := rfl
@[simp] theorem State.withOutputs_self (s : State) : s.withOutputs s.outputs = s := rfl
@[simp] theorem State.withFreeCount_withFreeCount (s : State) (x y : Nat) : (s.withFreeCount x).withFreeCount y = s.withFreeCount y := rfl
@[simp] theorem State.withFreeCount_self (s : State) : s.withFreeCount s.freeCount = s := rfl
@[simp] theorem State.withPending_withPending (s : State) (x y : List Instr) : (s.withPending x).withPending y = s.withPending y := rfl
@[simp] theorem State.withPending_self (s : State) : s.withPending s.pending = s := rfl

@[simp] theorem State.refuse_state (s : State) (st : Status) : (s.refuse st).state = s := rfl
@[simp] theorem State.refuse_status (s : State) (st : Status) : (s.refuse st).status = st := rfl
@[simp] theorem State.refuse_results (s : State) (st : Status) : (s.refuse st).results = .nothing := rfl
@[simp] theorem State.ok_state (s : State) : s.ok.state = s := rfl
@[simp] theorem State.ok_status (s : State) : s.ok.status = .ok := rfl
@[simp] theorem State.ok_results (s : State) : s.ok.results = .nothing := rfl
@[simp] theorem State.okWith_state (s : State) (r : Results) : (s.okWith r).state = s := rfl
@[simp] theorem State.okWith_status (s : State) (r : Results) : (s.okWith r).status = .ok := rfl
@[simp] theorem State.okWith_results (s : State) (r : Results) : (s.okWith r).results = r := rfl

end Sys2Proof.Machine
end

