-- ==== Sys2Proof/Laws/Frames.lean ====
section
/-! SUPPORT. What each operation leaves alone: one lemma per operation, naming every block of State that it does not
touch. A later proof cites these instead of unfolding the operation. -/

namespace Sys2Proof.Machine

@[simp] theorem State.setEntry_frame (s : State) (sp : Span) (e : PlanEntry) :
    (s.setEntry sp e).window = s.window ∧ (s.setEntry sp e).engine = s.engine ∧ (s.setEntry sp e).port = s.port ∧
    (s.setEntry sp e).banks = s.banks ∧ (s.setEntry sp e).baselines = s.baselines ∧
    (s.setEntry sp e).analyser = s.analyser ∧ (s.setEntry sp e).conditions = s.conditions ∧
    (s.setEntry sp e).reports = s.reports ∧ (s.setEntry sp e).notices = s.notices ∧ (s.setEntry sp e).link = s.link ∧
    (s.setEntry sp e).outputs = s.outputs ∧ (s.setEntry sp e).freeCount = s.freeCount ∧
    (s.setEntry sp e).pending = s.pending := by
  simp [State.setEntry]

@[simp] theorem State.setGroup_frame (s : State) (g : GroupNo) (x : Group) :
    (s.setGroup g x).window = s.window ∧ (s.setGroup g x).engine = s.engine ∧ (s.setGroup g x).port = s.port ∧
    (s.setGroup g x).banks = s.banks ∧ (s.setGroup g x).baselines = s.baselines ∧
    (s.setGroup g x).analyser = s.analyser ∧ (s.setGroup g x).conditions = s.conditions ∧
    (s.setGroup g x).reports = s.reports ∧ (s.setGroup g x).notices = s.notices ∧ (s.setGroup g x).link = s.link ∧
    (s.setGroup g x).outputs = s.outputs ∧ (s.setGroup g x).freeCount = s.freeCount ∧
    (s.setGroup g x).pending = s.pending := by
  simp [State.setGroup]

@[simp] theorem State.setSlot_frame (s : State) (sp : Span) (x : BaselineSlot) (poolFree : Nat) :
    (s.setSlot sp x poolFree).plan = s.plan ∧ (s.setSlot sp x poolFree).window = s.window ∧
    (s.setSlot sp x poolFree).engine = s.engine ∧ (s.setSlot sp x poolFree).port = s.port ∧
    (s.setSlot sp x poolFree).banks = s.banks ∧ (s.setSlot sp x poolFree).analyser = s.analyser ∧
    (s.setSlot sp x poolFree).conditions = s.conditions ∧ (s.setSlot sp x poolFree).reports = s.reports ∧
    (s.setSlot sp x poolFree).notices = s.notices ∧ (s.setSlot sp x poolFree).link = s.link ∧
    (s.setSlot sp x poolFree).outputs = s.outputs ∧ (s.setSlot sp x poolFree).freeCount = s.freeCount ∧
    (s.setSlot sp x poolFree).pending = s.pending := by
  simp [State.setSlot]

@[simp] theorem State.setProfile_frame (s : State) (p : ProfileNo) (x : Profile) :
    (s.setProfile p x).plan = s.plan ∧ (s.setProfile p x).window = s.window ∧ (s.setProfile p x).engine = s.engine ∧
    (s.setProfile p x).port = s.port ∧ (s.setProfile p x).banks = s.banks ∧
    (s.setProfile p x).baselines = s.baselines ∧ (s.setProfile p x).conditions = s.conditions ∧
    (s.setProfile p x).reports = s.reports ∧ (s.setProfile p x).notices = s.notices ∧
    (s.setProfile p x).link = s.link ∧ (s.setProfile p x).outputs = s.outputs ∧
    (s.setProfile p x).freeCount = s.freeCount ∧ (s.setProfile p x).pending = s.pending := by
  simp [State.setProfile]

@[simp] theorem State.setCondition_frame (s : State) (sp : Span) (x : ConditionEntry) :
    (s.setCondition sp x).plan = s.plan ∧ (s.setCondition sp x).window = s.window ∧
    (s.setCondition sp x).engine = s.engine ∧ (s.setCondition sp x).port = s.port ∧
    (s.setCondition sp x).banks = s.banks ∧ (s.setCondition sp x).baselines = s.baselines ∧
    (s.setCondition sp x).analyser = s.analyser ∧ (s.setCondition sp x).reports = s.reports ∧
    (s.setCondition sp x).notices = s.notices ∧ (s.setCondition sp x).link = s.link ∧
    (s.setCondition sp x).outputs = s.outputs ∧ (s.setCondition sp x).freeCount = s.freeCount ∧
    (s.setCondition sp x).pending = s.pending := by
  simp [State.setCondition]

@[simp] theorem State.setBank_frame (s : State) (n : BankName) (x : Bank) :
    (s.setBank n x).plan = s.plan ∧ (s.setBank n x).window = s.window ∧ (s.setBank n x).engine = s.engine ∧
    (s.setBank n x).port = s.port ∧ (s.setBank n x).baselines = s.baselines ∧ (s.setBank n x).analyser = s.analyser ∧
    (s.setBank n x).conditions = s.conditions ∧ (s.setBank n x).reports = s.reports ∧
    (s.setBank n x).notices = s.notices ∧ (s.setBank n x).link = s.link ∧ (s.setBank n x).outputs = s.outputs ∧
    (s.setBank n x).freeCount = s.freeCount ∧ (s.setBank n x).pending = s.pending := by
  unfold State.setBank
  (repeat' split) <;> simp

@[simp] theorem State.setContext_frame (s : State) (c : SweepContext) :
    (s.setContext c).plan = s.plan ∧ (s.setContext c).window = s.window ∧ (s.setContext c).engine = s.engine ∧
    (s.setContext c).port = s.port ∧ (s.setContext c).baselines = s.baselines ∧
    (s.setContext c).analyser = s.analyser ∧ (s.setContext c).conditions = s.conditions ∧
    (s.setContext c).reports = s.reports ∧ (s.setContext c).notices = s.notices ∧ (s.setContext c).link = s.link ∧
    (s.setContext c).outputs = s.outputs ∧ (s.setContext c).freeCount = s.freeCount ∧
    (s.setContext c).pending = s.pending := by
  unfold State.setContext
  (repeat' split) <;> simp

@[simp] theorem State.setEngineState_frame (s : State) (x : EngineState) :
    (s.setEngineState x).plan = s.plan ∧ (s.setEngineState x).window = s.window ∧
    (s.setEngineState x).port = s.port ∧ (s.setEngineState x).banks = s.banks ∧
    (s.setEngineState x).baselines = s.baselines ∧ (s.setEngineState x).analyser = s.analyser ∧
    (s.setEngineState x).conditions = s.conditions ∧ (s.setEngineState x).reports = s.reports ∧
    (s.setEngineState x).notices = s.notices ∧ (s.setEngineState x).link = s.link ∧
    (s.setEngineState x).outputs = s.outputs ∧ (s.setEngineState x).freeCount = s.freeCount ∧
    (s.setEngineState x).pending = s.pending := by
  simp [State.setEngineState]

@[simp] theorem State.nextFree_frame (s : State) :
    s.nextFree.plan = s.plan ∧ s.nextFree.window = s.window ∧ s.nextFree.engine = s.engine ∧
    s.nextFree.port = s.port ∧ s.nextFree.banks = s.banks ∧ s.nextFree.baselines = s.baselines ∧
    s.nextFree.analyser = s.analyser ∧ s.nextFree.conditions = s.conditions ∧ s.nextFree.reports = s.reports ∧
    s.nextFree.notices = s.notices ∧ s.nextFree.link = s.link ∧ s.nextFree.outputs = s.outputs ∧
    s.nextFree.pending = s.pending := by
  simp [State.nextFree]

@[simp] theorem State.raise_frame (s : State) (k : NoticeKind) :
    (s.raise k).plan = s.plan ∧ (s.raise k).window = s.window ∧ (s.raise k).engine = s.engine ∧
    (s.raise k).port = s.port ∧ (s.raise k).banks = s.banks ∧ (s.raise k).baselines = s.baselines ∧
    (s.raise k).analyser = s.analyser ∧ (s.raise k).conditions = s.conditions ∧ (s.raise k).reports = s.reports ∧
    (s.raise k).link = s.link ∧ (s.raise k).outputs = s.outputs ∧ (s.raise k).freeCount = s.freeCount ∧
    (s.raise k).pending = s.pending := by
  simp [State.raise]

@[simp] theorem State.choose_frame (s : State) :
    s.choose.plan = s.plan ∧ s.choose.window = s.window ∧ s.choose.port = s.port ∧ s.choose.banks = s.banks ∧
    s.choose.baselines = s.baselines ∧ s.choose.analyser = s.analyser ∧ s.choose.conditions = s.conditions ∧
    s.choose.reports = s.reports ∧ s.choose.notices = s.notices ∧ s.choose.link = s.link ∧
    s.choose.outputs = s.outputs ∧ s.choose.freeCount = s.freeCount ∧ s.choose.pending = s.pending := by
  unfold State.choose
  (repeat' split) <;> simp

@[simp] theorem State.checkPause_frame (s : State) :
    s.checkPause.plan = s.plan ∧ s.checkPause.window = s.window ∧ s.checkPause.engine = s.engine ∧
    s.checkPause.port = s.port ∧ s.checkPause.banks = s.banks ∧ s.checkPause.baselines = s.baselines ∧
    s.checkPause.analyser = s.analyser ∧ s.checkPause.conditions = s.conditions ∧ s.checkPause.link = s.link ∧
    s.checkPause.outputs = s.outputs ∧ s.checkPause.freeCount = s.freeCount ∧ s.checkPause.pending = s.pending := by
  unfold State.checkPause
  (repeat' split) <;> simp

@[simp] theorem State.checkResume_frame (s : State) :
    s.checkResume.plan = s.plan ∧ s.checkResume.window = s.window ∧ s.checkResume.engine = s.engine ∧
    s.checkResume.port = s.port ∧ s.checkResume.banks = s.banks ∧ s.checkResume.baselines = s.baselines ∧
    s.checkResume.analyser = s.analyser ∧ s.checkResume.conditions = s.conditions ∧
    s.checkResume.notices = s.notices ∧ s.checkResume.link = s.link ∧ s.checkResume.outputs = s.outputs ∧
    s.checkResume.freeCount = s.freeCount ∧ s.checkResume.pending = s.pending := by
  unfold State.checkResume
  (repeat' split) <;> simp

@[simp] theorem State.pushRecord_frame (s : State) (r : Record) :
    (s.pushRecord r).plan = s.plan ∧ (s.pushRecord r).window = s.window ∧ (s.pushRecord r).engine = s.engine ∧
    (s.pushRecord r).port = s.port ∧ (s.pushRecord r).banks = s.banks ∧ (s.pushRecord r).baselines = s.baselines ∧
    (s.pushRecord r).analyser = s.analyser ∧ (s.pushRecord r).conditions = s.conditions ∧
    (s.pushRecord r).link = s.link ∧ (s.pushRecord r).outputs = s.outputs ∧
    (s.pushRecord r).freeCount = s.freeCount ∧ (s.pushRecord r).pending = s.pending := by
  simp [State.pushRecord]

@[simp] theorem State.putReserved_frame (s : State) (r : Record) :
    (s.putReserved r).plan = s.plan ∧ (s.putReserved r).window = s.window ∧ (s.putReserved r).engine = s.engine ∧
    (s.putReserved r).port = s.port ∧ (s.putReserved r).banks = s.banks ∧ (s.putReserved r).baselines = s.baselines ∧
    (s.putReserved r).analyser = s.analyser ∧ (s.putReserved r).conditions = s.conditions ∧
    (s.putReserved r).link = s.link ∧ (s.putReserved r).outputs = s.outputs ∧
    (s.putReserved r).freeCount = s.freeCount ∧ (s.putReserved r).pending = s.pending := by
  simp [State.putReserved]

@[simp] theorem State.putAll_frame (s : State) (l : List Record) :
    (s.putAll l).plan = s.plan ∧ (s.putAll l).window = s.window ∧ (s.putAll l).engine = s.engine ∧
    (s.putAll l).port = s.port ∧ (s.putAll l).banks = s.banks ∧ (s.putAll l).baselines = s.baselines ∧
    (s.putAll l).analyser = s.analyser ∧ (s.putAll l).conditions = s.conditions ∧ (s.putAll l).link = s.link ∧
    (s.putAll l).outputs = s.outputs ∧ (s.putAll l).freeCount = s.freeCount ∧ (s.putAll l).pending = s.pending := by
  induction l generalizing s with
  | nil => simp [State.putAll]
  | cons r rest ih => simp [State.putAll, ih]

@[simp] theorem State.releaseSlots_frame (s : State) (n : Nat) :
    (s.releaseSlots n).plan = s.plan ∧ (s.releaseSlots n).window = s.window ∧ (s.releaseSlots n).port = s.port ∧
    (s.releaseSlots n).banks = s.banks ∧ (s.releaseSlots n).baselines = s.baselines ∧
    (s.releaseSlots n).analyser = s.analyser ∧ (s.releaseSlots n).conditions = s.conditions ∧
    (s.releaseSlots n).notices = s.notices ∧ (s.releaseSlots n).link = s.link ∧
    (s.releaseSlots n).outputs = s.outputs ∧ (s.releaseSlots n).freeCount = s.freeCount ∧
    (s.releaseSlots n).pending = s.pending := by
  simp [State.releaseSlots]

@[simp] theorem State.putWork_frame (s : State) (records : List Record) :
    (s.putWork records).plan = s.plan ∧ (s.putWork records).window = s.window ∧ (s.putWork records).port = s.port ∧
    (s.putWork records).banks = s.banks ∧ (s.putWork records).baselines = s.baselines ∧
    (s.putWork records).analyser = s.analyser ∧ (s.putWork records).conditions = s.conditions ∧
    (s.putWork records).link = s.link ∧ (s.putWork records).outputs = s.outputs ∧
    (s.putWork records).freeCount = s.freeCount ∧ (s.putWork records).pending = s.pending := by
  simp [State.putWork]

@[simp] theorem State.reserve_frame (s : State) :
    s.reserve.plan = s.plan ∧ s.reserve.window = s.window ∧ s.reserve.engine = s.engine ∧ s.reserve.port = s.port ∧
    s.reserve.banks = s.banks ∧ s.reserve.baselines = s.baselines ∧ s.reserve.analyser = s.analyser ∧
    s.reserve.conditions = s.conditions ∧ s.reserve.notices = s.notices ∧ s.reserve.link = s.link ∧
    s.reserve.outputs = s.outputs ∧ s.reserve.freeCount = s.freeCount ∧ s.reserve.pending = s.pending := by
  simp [State.reserve]

@[simp] theorem State.putEdge_frame (s : State) (r : Record) :
    (s.putEdge r).plan = s.plan ∧ (s.putEdge r).window = s.window ∧ (s.putEdge r).engine = s.engine ∧
    (s.putEdge r).port = s.port ∧ (s.putEdge r).banks = s.banks ∧ (s.putEdge r).baselines = s.baselines ∧
    (s.putEdge r).analyser = s.analyser ∧ (s.putEdge r).conditions = s.conditions ∧ (s.putEdge r).link = s.link ∧
    (s.putEdge r).outputs = s.outputs ∧ (s.putEdge r).freeCount = s.freeCount ∧ (s.putEdge r).pending = s.pending := by
  unfold State.putEdge
  (repeat' split) <;> simp

@[simp] theorem State.takeRecords_frame (s : State) (n : Nat) :
    (s.takeRecords n).plan = s.plan ∧ (s.takeRecords n).window = s.window ∧ (s.takeRecords n).port = s.port ∧
    (s.takeRecords n).banks = s.banks ∧ (s.takeRecords n).baselines = s.baselines ∧
    (s.takeRecords n).analyser = s.analyser ∧ (s.takeRecords n).conditions = s.conditions ∧
    (s.takeRecords n).notices = s.notices ∧ (s.takeRecords n).link = s.link ∧ (s.takeRecords n).outputs = s.outputs ∧
    (s.takeRecords n).freeCount = s.freeCount ∧ (s.takeRecords n).pending = s.pending := by
  unfold State.takeRecords
  (repeat' split) <;> simp

@[simp] theorem State.applyMarks_frame (s : State) :
    s.applyMarks.plan = s.plan ∧ s.applyMarks.window = s.window ∧ s.applyMarks.port = s.port ∧
    s.applyMarks.banks = s.banks ∧ s.applyMarks.baselines = s.baselines ∧ s.applyMarks.analyser = s.analyser ∧
    s.applyMarks.conditions = s.conditions ∧ s.applyMarks.link = s.link ∧ s.applyMarks.outputs = s.outputs ∧
    s.applyMarks.freeCount = s.freeCount ∧ s.applyMarks.pending = s.pending := by
  unfold State.applyMarks
  (repeat' split) <;> simp

@[simp] theorem State.setRecheck_frame (s : State) (q : List RecheckEntry) :
    (s.setRecheck q).plan = s.plan ∧ (s.setRecheck q).window = s.window ∧ (s.setRecheck q).engine = s.engine ∧
    (s.setRecheck q).port = s.port ∧ (s.setRecheck q).banks = s.banks ∧ (s.setRecheck q).baselines = s.baselines ∧
    (s.setRecheck q).analyser = s.analyser ∧ (s.setRecheck q).reports = s.reports ∧
    (s.setRecheck q).notices = s.notices ∧ (s.setRecheck q).link = s.link ∧ (s.setRecheck q).outputs = s.outputs ∧
    (s.setRecheck q).freeCount = s.freeCount ∧ (s.setRecheck q).pending = s.pending := by
  simp [State.setRecheck]

@[simp] theorem State.requestTail_frame (s : State) (sp : Span) (reason : RecheckReason) :
    (s.requestTail sp reason).plan = s.plan ∧ (s.requestTail sp reason).window = s.window ∧
    (s.requestTail sp reason).port = s.port ∧ (s.requestTail sp reason).banks = s.banks ∧
    (s.requestTail sp reason).baselines = s.baselines ∧ (s.requestTail sp reason).analyser = s.analyser ∧
    (s.requestTail sp reason).reports = s.reports ∧ (s.requestTail sp reason).link = s.link ∧
    (s.requestTail sp reason).outputs = s.outputs ∧ (s.requestTail sp reason).freeCount = s.freeCount ∧
    (s.requestTail sp reason).pending = s.pending := by
  unfold State.requestTail
  (repeat' split) <;> simp

@[simp] theorem State.requestHead_frame (s : State) (sp : Span) (cls : PulseClass) :
    (s.requestHead sp cls).plan = s.plan ∧ (s.requestHead sp cls).window = s.window ∧
    (s.requestHead sp cls).port = s.port ∧ (s.requestHead sp cls).banks = s.banks ∧
    (s.requestHead sp cls).baselines = s.baselines ∧ (s.requestHead sp cls).analyser = s.analyser ∧
    (s.requestHead sp cls).reports = s.reports ∧ (s.requestHead sp cls).link = s.link ∧
    (s.requestHead sp cls).outputs = s.outputs ∧ (s.requestHead sp cls).freeCount = s.freeCount ∧
    (s.requestHead sp cls).pending = s.pending := by
  unfold State.requestHead
  (repeat' split) <;> simp

@[simp] theorem State.removeRecheck_frame (s : State) (sp : Span) :
    (s.removeRecheck sp).plan = s.plan ∧ (s.removeRecheck sp).window = s.window ∧
    (s.removeRecheck sp).port = s.port ∧ (s.removeRecheck sp).banks = s.banks ∧
    (s.removeRecheck sp).baselines = s.baselines ∧ (s.removeRecheck sp).analyser = s.analyser ∧
    (s.removeRecheck sp).reports = s.reports ∧ (s.removeRecheck sp).notices = s.notices ∧
    (s.removeRecheck sp).link = s.link ∧ (s.removeRecheck sp).outputs = s.outputs ∧
    (s.removeRecheck sp).freeCount = s.freeCount ∧ (s.removeRecheck sp).pending = s.pending := by
  unfold State.removeRecheck
  (repeat' split) <;> simp

@[simp] theorem State.removeConfirm_frame (s : State) (sp : Span) :
    (s.removeConfirm sp).plan = s.plan ∧ (s.removeConfirm sp).window = s.window ∧
    (s.removeConfirm sp).port = s.port ∧ (s.removeConfirm sp).banks = s.banks ∧
    (s.removeConfirm sp).baselines = s.baselines ∧ (s.removeConfirm sp).analyser = s.analyser ∧
    (s.removeConfirm sp).reports = s.reports ∧ (s.removeConfirm sp).notices = s.notices ∧
    (s.removeConfirm sp).link = s.link ∧ (s.removeConfirm sp).outputs = s.outputs ∧
    (s.removeConfirm sp).freeCount = s.freeCount ∧ (s.removeConfirm sp).pending = s.pending := by
  unfold State.removeConfirm
  (repeat' split) <;> simp

@[simp] theorem State.startCycle_frame (s : State) :
    s.startCycle.window = s.window ∧ s.startCycle.port = s.port ∧ s.startCycle.banks = s.banks ∧
    s.startCycle.baselines = s.baselines ∧ s.startCycle.analyser = s.analyser ∧
    s.startCycle.conditions = s.conditions ∧ s.startCycle.reports = s.reports ∧ s.startCycle.notices = s.notices ∧
    s.startCycle.link = s.link ∧ s.startCycle.outputs = s.outputs ∧ s.startCycle.freeCount = s.freeCount ∧
    s.startCycle.pending = s.pending := by
  unfold State.startCycle
  (repeat' split) <;> simp

@[simp] theorem State.putCycleEnd_frame (s : State) (e : EndingCycle) :
    (s.putCycleEnd e).plan = s.plan ∧ (s.putCycleEnd e).window = s.window ∧ (s.putCycleEnd e).engine = s.engine ∧
    (s.putCycleEnd e).port = s.port ∧ (s.putCycleEnd e).banks = s.banks ∧ (s.putCycleEnd e).baselines = s.baselines ∧
    (s.putCycleEnd e).analyser = s.analyser ∧ (s.putCycleEnd e).conditions = s.conditions ∧
    (s.putCycleEnd e).link = s.link ∧ (s.putCycleEnd e).outputs = s.outputs ∧
    (s.putCycleEnd e).freeCount = s.freeCount ∧ (s.putCycleEnd e).pending = s.pending := by
  simp [State.putCycleEnd]

@[simp] theorem State.endCycle_frame (s : State) (reason : CycleReason) (notReached : Nat) :
    (s.endCycle reason notReached).window = s.window ∧ (s.endCycle reason notReached).engine = s.engine ∧
    (s.endCycle reason notReached).port = s.port ∧ (s.endCycle reason notReached).banks = s.banks ∧
    (s.endCycle reason notReached).baselines = s.baselines ∧ (s.endCycle reason notReached).analyser = s.analyser ∧
    (s.endCycle reason notReached).conditions = s.conditions ∧ (s.endCycle reason notReached).link = s.link ∧
    (s.endCycle reason notReached).outputs = s.outputs ∧ (s.endCycle reason notReached).freeCount = s.freeCount ∧
    (s.endCycle reason notReached).pending = s.pending := by
  unfold State.endCycle
  (repeat' split) <;> simp

@[simp] theorem State.closeCycle_frame (s : State) :
    s.closeCycle.window = s.window ∧ s.closeCycle.engine = s.engine ∧ s.closeCycle.port = s.port ∧
    s.closeCycle.banks = s.banks ∧ s.closeCycle.baselines = s.baselines ∧ s.closeCycle.analyser = s.analyser ∧
    s.closeCycle.conditions = s.conditions ∧ s.closeCycle.link = s.link ∧ s.closeCycle.outputs = s.outputs ∧
    s.closeCycle.freeCount = s.freeCount ∧ s.closeCycle.pending = s.pending := by
  unfold State.closeCycle
  (repeat' split) <;> simp

@[simp] theorem State.countStarted_frame (s : State) (as : CountedAs) :
    (s.countStarted as).window = s.window ∧ (s.countStarted as).engine = s.engine ∧
    (s.countStarted as).port = s.port ∧ (s.countStarted as).banks = s.banks ∧
    (s.countStarted as).baselines = s.baselines ∧ (s.countStarted as).analyser = s.analyser ∧
    (s.countStarted as).conditions = s.conditions ∧ (s.countStarted as).reports = s.reports ∧
    (s.countStarted as).notices = s.notices ∧ (s.countStarted as).link = s.link ∧
    (s.countStarted as).outputs = s.outputs ∧ (s.countStarted as).freeCount = s.freeCount ∧
    (s.countStarted as).pending = s.pending := by
  unfold State.countStarted
  (repeat' split) <;> simp

@[simp] theorem State.countEndedEnding_frame (s : State) (n : Nat) (as : CountedAs) :
    (s.countEndedEnding n as).window = s.window ∧ (s.countEndedEnding n as).engine = s.engine ∧
    (s.countEndedEnding n as).port = s.port ∧ (s.countEndedEnding n as).banks = s.banks ∧
    (s.countEndedEnding n as).baselines = s.baselines ∧ (s.countEndedEnding n as).analyser = s.analyser ∧
    (s.countEndedEnding n as).conditions = s.conditions ∧ (s.countEndedEnding n as).link = s.link ∧
    (s.countEndedEnding n as).outputs = s.outputs ∧ (s.countEndedEnding n as).freeCount = s.freeCount ∧
    (s.countEndedEnding n as).pending = s.pending := by
  unfold State.countEndedEnding
  (repeat' split) <;> simp

@[simp] theorem State.countEnded_frame (s : State) (cycle : Option Nat) (as : CountedAs) :
    (s.countEnded cycle as).window = s.window ∧ (s.countEnded cycle as).engine = s.engine ∧
    (s.countEnded cycle as).port = s.port ∧ (s.countEnded cycle as).banks = s.banks ∧
    (s.countEnded cycle as).baselines = s.baselines ∧ (s.countEnded cycle as).analyser = s.analyser ∧
    (s.countEnded cycle as).conditions = s.conditions ∧ (s.countEnded cycle as).link = s.link ∧
    (s.countEnded cycle as).outputs = s.outputs ∧ (s.countEnded cycle as).freeCount = s.freeCount ∧
    (s.countEnded cycle as).pending = s.pending := by
  unfold State.countEnded
  (repeat' split) <;> simp

@[simp] theorem State.takeAt_frame (s : State) (sp : Span) :
    (s.takeAt sp).window = s.window ∧ (s.takeAt sp).engine = s.engine ∧ (s.takeAt sp).port = s.port ∧
    (s.takeAt sp).banks = s.banks ∧ (s.takeAt sp).baselines = s.baselines ∧ (s.takeAt sp).analyser = s.analyser ∧
    (s.takeAt sp).conditions = s.conditions ∧ (s.takeAt sp).reports = s.reports ∧ (s.takeAt sp).notices = s.notices ∧
    (s.takeAt sp).link = s.link ∧ (s.takeAt sp).outputs = s.outputs ∧ (s.takeAt sp).freeCount = s.freeCount ∧
    (s.takeAt sp).pending = s.pending := by
  simp [State.takeAt]

@[simp] theorem State.wrapCycle_frame (s : State) (c : CycleRecord) :
    (s.wrapCycle c).window = s.window ∧ (s.wrapCycle c).port = s.port ∧ (s.wrapCycle c).banks = s.banks ∧
    (s.wrapCycle c).baselines = s.baselines ∧ (s.wrapCycle c).analyser = s.analyser ∧
    (s.wrapCycle c).conditions = s.conditions ∧ (s.wrapCycle c).link = s.link ∧ (s.wrapCycle c).outputs = s.outputs ∧
    (s.wrapCycle c).freeCount = s.freeCount ∧ (s.wrapCycle c).pending = s.pending := by
  unfold State.wrapCycle
  dsimp only
  split <;> simp

theorem State.takePlanSpan_frame {s t : State} {sp : Span} (h : s.takePlanSpan = some (t, sp)) :
    t.window = s.window ∧ t.port = s.port ∧ t.banks = s.banks ∧ t.baselines = s.baselines ∧ t.analyser = s.analyser ∧
    t.conditions = s.conditions ∧ t.link = s.link ∧ t.outputs = s.outputs ∧ t.freeCount = s.freeCount ∧
    t.pending = s.pending := by
  unfold State.takePlanSpan at h
  (repeat' split at h) <;> simp at h <;> obtain ⟨rfl, rfl⟩ := h <;> simp

@[simp] theorem State.planWritten_frame (s : State) (sp : Span) (was : Bool) :
    (s.planWritten sp was).window = s.window ∧ (s.planWritten sp was).port = s.port ∧
    (s.planWritten sp was).banks = s.banks ∧ (s.planWritten sp was).baselines = s.baselines ∧
    (s.planWritten sp was).analyser = s.analyser ∧ (s.planWritten sp was).reports = s.reports ∧
    (s.planWritten sp was).notices = s.notices ∧ (s.planWritten sp was).link = s.link ∧
    (s.planWritten sp was).outputs = s.outputs ∧ (s.planWritten sp was).freeCount = s.freeCount ∧
    (s.planWritten sp was).pending = s.pending := by
  unfold State.planWritten
  (repeat' split) <;> simp

@[simp] theorem State.planWrite_frame (s : State) (span enabled port group : Byte) :
    (s.planWrite span enabled port group).state.window = s.window ∧
    (s.planWrite span enabled port group).state.port = s.port ∧
    (s.planWrite span enabled port group).state.banks = s.banks ∧
    (s.planWrite span enabled port group).state.baselines = s.baselines ∧
    (s.planWrite span enabled port group).state.analyser = s.analyser ∧
    (s.planWrite span enabled port group).state.reports = s.reports ∧
    (s.planWrite span enabled port group).state.notices = s.notices ∧
    (s.planWrite span enabled port group).state.link = s.link ∧
    (s.planWrite span enabled port group).state.outputs = s.outputs ∧
    (s.planWrite span enabled port group).state.freeCount = s.freeCount ∧
    (s.planWrite span enabled port group).state.pending = s.pending := by
  unfold State.planWrite
  (repeat' split) <;> simp

@[simp] theorem State.planRead_frame (s : State) (span : Byte) :
    (s.planRead span).state.plan = s.plan ∧ (s.planRead span).state.window = s.window ∧
    (s.planRead span).state.engine = s.engine ∧ (s.planRead span).state.port = s.port ∧
    (s.planRead span).state.banks = s.banks ∧ (s.planRead span).state.baselines = s.baselines ∧
    (s.planRead span).state.analyser = s.analyser ∧ (s.planRead span).state.conditions = s.conditions ∧
    (s.planRead span).state.reports = s.reports ∧ (s.planRead span).state.notices = s.notices ∧
    (s.planRead span).state.link = s.link ∧ (s.planRead span).state.outputs = s.outputs ∧
    (s.planRead span).state.freeCount = s.freeCount ∧ (s.planRead span).state.pending = s.pending := by
  unfold State.planRead
  (repeat' split) <;> simp

@[simp] theorem State.planSeek_frame (s : State) (index : Byte) :
    (s.planSeek index).state.window = s.window ∧ (s.planSeek index).state.engine = s.engine ∧
    (s.planSeek index).state.port = s.port ∧ (s.planSeek index).state.banks = s.banks ∧
    (s.planSeek index).state.baselines = s.baselines ∧ (s.planSeek index).state.analyser = s.analyser ∧
    (s.planSeek index).state.conditions = s.conditions ∧ (s.planSeek index).state.reports = s.reports ∧
    (s.planSeek index).state.notices = s.notices ∧ (s.planSeek index).state.link = s.link ∧
    (s.planSeek index).state.outputs = s.outputs ∧ (s.planSeek index).state.freeCount = s.freeCount ∧
    (s.planSeek index).state.pending = s.pending := by
  unfold State.planSeek
  (repeat' split) <;> simp

@[simp] theorem State.groupStage_frame (s : State) (group : Byte) (pairs : List (Byte × Word)) :
    (s.groupStage group pairs).state.window = s.window ∧ (s.groupStage group pairs).state.engine = s.engine ∧
    (s.groupStage group pairs).state.port = s.port ∧ (s.groupStage group pairs).state.banks = s.banks ∧
    (s.groupStage group pairs).state.baselines = s.baselines ∧
    (s.groupStage group pairs).state.analyser = s.analyser ∧
    (s.groupStage group pairs).state.conditions = s.conditions ∧
    (s.groupStage group pairs).state.reports = s.reports ∧ (s.groupStage group pairs).state.notices = s.notices ∧
    (s.groupStage group pairs).state.link = s.link ∧ (s.groupStage group pairs).state.outputs = s.outputs ∧
    (s.groupStage group pairs).state.freeCount = s.freeCount ∧ (s.groupStage group pairs).state.pending = s.pending := by
  unfold State.groupStage
  (repeat' split) <;> simp

@[simp] theorem State.commitGroups_frame (s : State) (l : List GroupNo) :
    (s.commitGroups l).window = s.window ∧ (s.commitGroups l).engine = s.engine ∧ (s.commitGroups l).port = s.port ∧
    (s.commitGroups l).banks = s.banks ∧ (s.commitGroups l).baselines = s.baselines ∧
    (s.commitGroups l).analyser = s.analyser ∧ (s.commitGroups l).conditions = s.conditions ∧
    (s.commitGroups l).reports = s.reports ∧ (s.commitGroups l).notices = s.notices ∧
    (s.commitGroups l).link = s.link ∧ (s.commitGroups l).outputs = s.outputs ∧
    (s.commitGroups l).freeCount = s.freeCount ∧ (s.commitGroups l).pending = s.pending := by
  induction l generalizing s with
  | nil => simp [State.commitGroups]
  | cons r rest ih => simp [State.commitGroups, ih]

@[simp] theorem State.groupCommit_frame (s : State) (groups : List Byte) :
    (s.groupCommit groups).state.window = s.window ∧ (s.groupCommit groups).state.engine = s.engine ∧
    (s.groupCommit groups).state.port = s.port ∧ (s.groupCommit groups).state.banks = s.banks ∧
    (s.groupCommit groups).state.baselines = s.baselines ∧ (s.groupCommit groups).state.analyser = s.analyser ∧
    (s.groupCommit groups).state.conditions = s.conditions ∧ (s.groupCommit groups).state.reports = s.reports ∧
    (s.groupCommit groups).state.notices = s.notices ∧ (s.groupCommit groups).state.link = s.link ∧
    (s.groupCommit groups).state.outputs = s.outputs ∧ (s.groupCommit groups).state.freeCount = s.freeCount ∧
    (s.groupCommit groups).state.pending = s.pending := by
  unfold State.groupCommit
  (repeat' split) <;> simp

@[simp] theorem State.groupRead_frame (s : State) (group : Byte) :
    (s.groupRead group).state.plan = s.plan ∧ (s.groupRead group).state.window = s.window ∧
    (s.groupRead group).state.engine = s.engine ∧ (s.groupRead group).state.port = s.port ∧
    (s.groupRead group).state.banks = s.banks ∧ (s.groupRead group).state.baselines = s.baselines ∧
    (s.groupRead group).state.analyser = s.analyser ∧ (s.groupRead group).state.conditions = s.conditions ∧
    (s.groupRead group).state.reports = s.reports ∧ (s.groupRead group).state.notices = s.notices ∧
    (s.groupRead group).state.link = s.link ∧ (s.groupRead group).state.outputs = s.outputs ∧
    (s.groupRead group).state.freeCount = s.freeCount ∧ (s.groupRead group).state.pending = s.pending := by
  unfold State.groupRead
  (repeat' split) <;> simp

@[simp] theorem State.fire_frame (s : State) (c : SweepContext) (dark : Bool) :
    (s.fire c dark).plan = s.plan ∧ (s.fire c dark).window = s.window ∧ (s.fire c dark).engine = s.engine ∧
    (s.fire c dark).banks = s.banks ∧ (s.fire c dark).baselines = s.baselines ∧
    (s.fire c dark).analyser = s.analyser ∧ (s.fire c dark).conditions = s.conditions ∧
    (s.fire c dark).reports = s.reports ∧ (s.fire c dark).notices = s.notices ∧ (s.fire c dark).link = s.link ∧
    (s.fire c dark).freeCount = s.freeCount ∧ (s.fire c dark).pending = s.pending := by
  simp [State.fire]

@[simp] theorem State.darkTest_frame (s : State) (c : SweepContext) :
    (s.darkTest c).plan = s.plan ∧ (s.darkTest c).window = s.window ∧ (s.darkTest c).engine = s.engine ∧
    (s.darkTest c).banks = s.banks ∧ (s.darkTest c).baselines = s.baselines ∧ (s.darkTest c).analyser = s.analyser ∧
    (s.darkTest c).conditions = s.conditions ∧ (s.darkTest c).reports = s.reports ∧
    (s.darkTest c).notices = s.notices ∧ (s.darkTest c).link = s.link ∧ (s.darkTest c).freeCount = s.freeCount ∧
    (s.darkTest c).pending = s.pending := by
  unfold State.darkTest
  (repeat' split) <;> simp

@[simp] theorem State.fireTest_frame (s : State) (c : SweepContext) :
    (s.fireTest c).plan = s.plan ∧ (s.fireTest c).window = s.window ∧ (s.fireTest c).banks = s.banks ∧
    (s.fireTest c).baselines = s.baselines ∧ (s.fireTest c).analyser = s.analyser ∧
    (s.fireTest c).conditions = s.conditions ∧ (s.fireTest c).reports = s.reports ∧
    (s.fireTest c).notices = s.notices ∧ (s.fireTest c).link = s.link ∧ (s.fireTest c).freeCount = s.freeCount ∧
    (s.fireTest c).pending = s.pending := by
  unfold State.fireTest
  (repeat' split) <;> simp

@[simp] theorem State.retest_frame (s : State) :
    s.retest.plan = s.plan ∧ s.retest.window = s.window ∧ s.retest.banks = s.banks ∧
    s.retest.baselines = s.baselines ∧ s.retest.analyser = s.analyser ∧ s.retest.conditions = s.conditions ∧
    s.retest.reports = s.reports ∧ s.retest.notices = s.notices ∧ s.retest.link = s.link ∧
    s.retest.freeCount = s.freeCount ∧ s.retest.pending = s.pending := by
  unfold State.retest
  (repeat' split) <;> simp

@[simp] theorem State.decideOutcome_frame (s : State) (o : EngineOutcome) :
    (s.decideOutcome o).plan = s.plan ∧ (s.decideOutcome o).window = s.window ∧ (s.decideOutcome o).banks = s.banks ∧
    (s.decideOutcome o).baselines = s.baselines ∧ (s.decideOutcome o).analyser = s.analyser ∧
    (s.decideOutcome o).conditions = s.conditions ∧ (s.decideOutcome o).reports = s.reports ∧
    (s.decideOutcome o).notices = s.notices ∧ (s.decideOutcome o).link = s.link ∧
    (s.decideOutcome o).outputs = s.outputs ∧ (s.decideOutcome o).freeCount = s.freeCount ∧
    (s.decideOutcome o).pending = s.pending := by
  simp [State.decideOutcome]

@[simp] theorem State.cut_frame (s : State) :
    s.cut.plan = s.plan ∧ s.cut.window = s.window ∧ s.cut.banks = s.banks ∧ s.cut.baselines = s.baselines ∧
    s.cut.analyser = s.analyser ∧ s.cut.conditions = s.conditions ∧ s.cut.reports = s.reports ∧
    s.cut.notices = s.notices ∧ s.cut.link = s.link ∧ s.cut.outputs = s.outputs ∧ s.cut.freeCount = s.freeCount ∧
    s.cut.pending = s.pending := by
  unfold State.cut
  (repeat' split) <;> simp

@[simp] theorem State.endByJudgement_frame (s : State) (o : EngineOutcome) :
    (s.endByJudgement o).plan = s.plan ∧ (s.endByJudgement o).window = s.window ∧
    (s.endByJudgement o).banks = s.banks ∧ (s.endByJudgement o).baselines = s.baselines ∧
    (s.endByJudgement o).analyser = s.analyser ∧ (s.endByJudgement o).conditions = s.conditions ∧
    (s.endByJudgement o).reports = s.reports ∧ (s.endByJudgement o).link = s.link ∧
    (s.endByJudgement o).outputs = s.outputs ∧ (s.endByJudgement o).freeCount = s.freeCount ∧
    (s.endByJudgement o).pending = s.pending := by
  unfold State.endByJudgement
  (repeat' split) <;> simp

@[simp] theorem State.takeJudgement_frame (s : State) (c : SweepContext) (dark : Bool) (j : Judgement) :
    (s.takeJudgement c dark j).plan = s.plan ∧ (s.takeJudgement c dark j).window = s.window ∧
    (s.takeJudgement c dark j).baselines = s.baselines ∧ (s.takeJudgement c dark j).analyser = s.analyser ∧
    (s.takeJudgement c dark j).conditions = s.conditions ∧ (s.takeJudgement c dark j).reports = s.reports ∧
    (s.takeJudgement c dark j).link = s.link ∧ (s.takeJudgement c dark j).freeCount = s.freeCount ∧
    (s.takeJudgement c dark j).pending = s.pending := by
  unfold State.takeJudgement
  (repeat' split) <;> simp

@[simp] theorem State.deliver_frame (s : State) (dark : Bool) (j : Judgement) :
    (s.deliver dark j).plan = s.plan ∧ (s.deliver dark j).window = s.window ∧
    (s.deliver dark j).baselines = s.baselines ∧ (s.deliver dark j).analyser = s.analyser ∧
    (s.deliver dark j).conditions = s.conditions ∧ (s.deliver dark j).reports = s.reports ∧
    (s.deliver dark j).link = s.link ∧ (s.deliver dark j).freeCount = s.freeCount ∧
    (s.deliver dark j).pending = s.pending := by
  unfold State.deliver
  (repeat' split) <;> simp

@[simp] theorem State.sendSelect_frame (s : State) (p : SelPort) :
    (s.sendSelect p).plan = s.plan ∧ (s.sendSelect p).window = s.window ∧ (s.sendSelect p).port = s.port ∧
    (s.sendSelect p).banks = s.banks ∧ (s.sendSelect p).baselines = s.baselines ∧
    (s.sendSelect p).analyser = s.analyser ∧ (s.sendSelect p).conditions = s.conditions ∧
    (s.sendSelect p).reports = s.reports ∧ (s.sendSelect p).notices = s.notices ∧ (s.sendSelect p).link = s.link ∧
    (s.sendSelect p).freeCount = s.freeCount ∧ (s.sendSelect p).pending = s.pending := by
  simp [State.sendSelect]

@[simp] theorem State.enterSettling_frame (s : State) (c : SweepContext) :
    (s.enterSettling c).plan = s.plan ∧ (s.enterSettling c).window = s.window ∧ (s.enterSettling c).port = s.port ∧
    (s.enterSettling c).banks = s.banks ∧ (s.enterSettling c).baselines = s.baselines ∧
    (s.enterSettling c).analyser = s.analyser ∧ (s.enterSettling c).conditions = s.conditions ∧
    (s.enterSettling c).reports = s.reports ∧ (s.enterSettling c).notices = s.notices ∧
    (s.enterSettling c).link = s.link ∧ (s.enterSettling c).outputs = s.outputs ∧
    (s.enterSettling c).freeCount = s.freeCount ∧ (s.enterSettling c).pending = s.pending := by
  simp [State.enterSettling]

@[simp] theorem State.enterDarkCheck_frame (s : State) :
    s.enterDarkCheck.plan = s.plan ∧ s.enterDarkCheck.window = s.window ∧ s.enterDarkCheck.banks = s.banks ∧
    s.enterDarkCheck.baselines = s.baselines ∧ s.enterDarkCheck.analyser = s.analyser ∧
    s.enterDarkCheck.conditions = s.conditions ∧ s.enterDarkCheck.reports = s.reports ∧
    s.enterDarkCheck.notices = s.notices ∧ s.enterDarkCheck.link = s.link ∧
    s.enterDarkCheck.freeCount = s.freeCount ∧ s.enterDarkCheck.pending = s.pending := by
  simp [State.enterDarkCheck]

@[simp] theorem State.select_frame (s : State) (c : SweepContext) :
    (s.select c).plan = s.plan ∧ (s.select c).window = s.window ∧ (s.select c).banks = s.banks ∧
    (s.select c).baselines = s.baselines ∧ (s.select c).analyser = s.analyser ∧
    (s.select c).conditions = s.conditions ∧ (s.select c).reports = s.reports ∧ (s.select c).notices = s.notices ∧
    (s.select c).link = s.link ∧ (s.select c).freeCount = s.freeCount ∧ (s.select c).pending = s.pending := by
  unfold State.select
  (repeat' split) <;> simp

@[simp] theorem State.selectorLeft_frame (s : State) (p : SelPort) :
    (s.selectorLeft p).plan = s.plan ∧ (s.selectorLeft p).window = s.window ∧ (s.selectorLeft p).banks = s.banks ∧
    (s.selectorLeft p).baselines = s.baselines ∧ (s.selectorLeft p).analyser = s.analyser ∧
    (s.selectorLeft p).conditions = s.conditions ∧ (s.selectorLeft p).reports = s.reports ∧
    (s.selectorLeft p).notices = s.notices ∧ (s.selectorLeft p).link = s.link ∧
    (s.selectorLeft p).freeCount = s.freeCount ∧ (s.selectorLeft p).pending = s.pending := by
  unfold State.selectorLeft
  (repeat' split) <;> simp

@[simp] theorem State.selectorSettles_frame (s : State) (p : SelPort) (sel : Selector) :
    (s.selectorSettles p sel).plan = s.plan ∧ (s.selectorSettles p sel).window = s.window ∧
    (s.selectorSettles p sel).banks = s.banks ∧ (s.selectorSettles p sel).baselines = s.baselines ∧
    (s.selectorSettles p sel).analyser = s.analyser ∧ (s.selectorSettles p sel).conditions = s.conditions ∧
    (s.selectorSettles p sel).reports = s.reports ∧ (s.selectorSettles p sel).notices = s.notices ∧
    (s.selectorSettles p sel).link = s.link ∧ (s.selectorSettles p sel).freeCount = s.freeCount ∧
    (s.selectorSettles p sel).pending = s.pending := by
  simp [State.selectorSettles]

@[simp] theorem State.selectorFails_frame (s : State) (p : SelPort) :
    (s.selectorFails p).plan = s.plan ∧ (s.selectorFails p).window = s.window ∧ (s.selectorFails p).banks = s.banks ∧
    (s.selectorFails p).baselines = s.baselines ∧ (s.selectorFails p).analyser = s.analyser ∧
    (s.selectorFails p).conditions = s.conditions ∧ (s.selectorFails p).reports = s.reports ∧
    (s.selectorFails p).link = s.link ∧ (s.selectorFails p).freeCount = s.freeCount ∧
    (s.selectorFails p).pending = s.pending := by
  simp [State.selectorFails]

@[simp] theorem State.selectorSet_frame (s : State) (port : Byte) :
    (s.selectorSet port).plan = s.plan ∧ (s.selectorSet port).window = s.window ∧
    (s.selectorSet port).banks = s.banks ∧ (s.selectorSet port).baselines = s.baselines ∧
    (s.selectorSet port).analyser = s.analyser ∧ (s.selectorSet port).conditions = s.conditions ∧
    (s.selectorSet port).reports = s.reports ∧ (s.selectorSet port).link = s.link ∧
    (s.selectorSet port).freeCount = s.freeCount ∧ (s.selectorSet port).pending = s.pending := by
  unfold State.selectorSet
  (repeat' split) <;> simp

@[simp] theorem State.selectorFault_frame (s : State) :
    s.selectorFault.plan = s.plan ∧ s.selectorFault.window = s.window ∧ s.selectorFault.banks = s.banks ∧
    s.selectorFault.baselines = s.baselines ∧ s.selectorFault.analyser = s.analyser ∧
    s.selectorFault.conditions = s.conditions ∧ s.selectorFault.reports = s.reports ∧ s.selectorFault.link = s.link ∧
    s.selectorFault.freeCount = s.freeCount ∧ s.selectorFault.pending = s.pending := by
  unfold State.selectorFault
  (repeat' split) <;> simp

@[simp] theorem State.selectorExpires_frame (s : State) :
    s.selectorExpires.plan = s.plan ∧ s.selectorExpires.window = s.window ∧ s.selectorExpires.banks = s.banks ∧
    s.selectorExpires.baselines = s.baselines ∧ s.selectorExpires.analyser = s.analyser ∧
    s.selectorExpires.conditions = s.conditions ∧ s.selectorExpires.reports = s.reports ∧
    s.selectorExpires.link = s.link ∧ s.selectorExpires.freeCount = s.freeCount ∧
    s.selectorExpires.pending = s.pending := by
  unfold State.selectorExpires
  (repeat' split) <;> simp

@[simp] theorem State.settleExpires_frame (s : State) :
    s.settleExpires.plan = s.plan ∧ s.settleExpires.window = s.window ∧ s.settleExpires.banks = s.banks ∧
    s.settleExpires.baselines = s.baselines ∧ s.settleExpires.analyser = s.analyser ∧
    s.settleExpires.conditions = s.conditions ∧ s.settleExpires.reports = s.reports ∧
    s.settleExpires.notices = s.notices ∧ s.settleExpires.link = s.link ∧ s.settleExpires.freeCount = s.freeCount ∧
    s.settleExpires.pending = s.pending := by
  unfold State.settleExpires
  (repeat' split) <;> simp

@[simp] theorem State.hotHoldExpires_frame (s : State) :
    s.hotHoldExpires.plan = s.plan ∧ s.hotHoldExpires.window = s.window ∧ s.hotHoldExpires.banks = s.banks ∧
    s.hotHoldExpires.baselines = s.baselines ∧ s.hotHoldExpires.analyser = s.analyser ∧
    s.hotHoldExpires.conditions = s.conditions ∧ s.hotHoldExpires.reports = s.reports ∧
    s.hotHoldExpires.notices = s.notices ∧ s.hotHoldExpires.link = s.link ∧ s.hotHoldExpires.outputs = s.outputs ∧
    s.hotHoldExpires.freeCount = s.freeCount ∧ s.hotHoldExpires.pending = s.pending := by
  unfold State.hotHoldExpires
  (repeat' split) <;> simp

@[simp] theorem State.resumeFiring_frame (s : State) :
    s.resumeFiring.plan = s.plan ∧ s.resumeFiring.window = s.window ∧ s.resumeFiring.banks = s.banks ∧
    s.resumeFiring.baselines = s.baselines ∧ s.resumeFiring.analyser = s.analyser ∧
    s.resumeFiring.conditions = s.conditions ∧ s.resumeFiring.reports = s.reports ∧
    s.resumeFiring.notices = s.notices ∧ s.resumeFiring.link = s.link ∧ s.resumeFiring.freeCount = s.freeCount ∧
    s.resumeFiring.pending = s.pending := by
  unfold State.resumeFiring
  (repeat' split) <;> simp

@[simp] theorem State.tear_frame (s : State) (b : OpenBlock) :
    (s.tear b).plan = s.plan ∧ (s.tear b).window = s.window ∧ (s.tear b).baselines = s.baselines ∧
    (s.tear b).analyser = s.analyser ∧ (s.tear b).conditions = s.conditions ∧ (s.tear b).reports = s.reports ∧
    (s.tear b).link = s.link ∧ (s.tear b).freeCount = s.freeCount ∧ (s.tear b).pending = s.pending := by
  unfold State.tear
  (repeat' split) <;> simp

@[simp] theorem State.headerArrives_frame (s : State) (tag : Byte) (bins : Half) :
    (s.headerArrives tag bins).plan = s.plan ∧ (s.headerArrives tag bins).window = s.window ∧
    (s.headerArrives tag bins).baselines = s.baselines ∧ (s.headerArrives tag bins).analyser = s.analyser ∧
    (s.headerArrives tag bins).conditions = s.conditions ∧ (s.headerArrives tag bins).reports = s.reports ∧
    (s.headerArrives tag bins).link = s.link ∧ (s.headerArrives tag bins).freeCount = s.freeCount ∧
    (s.headerArrives tag bins).pending = s.pending := by
  unfold State.headerArrives
  (repeat' split) <;> simp

@[simp] theorem State.sampleArrives_frame (s : State) (level : Half) :
    (s.sampleArrives level).plan = s.plan ∧ (s.sampleArrives level).window = s.window ∧
    (s.sampleArrives level).engine = s.engine ∧ (s.sampleArrives level).banks = s.banks ∧
    (s.sampleArrives level).baselines = s.baselines ∧ (s.sampleArrives level).analyser = s.analyser ∧
    (s.sampleArrives level).conditions = s.conditions ∧ (s.sampleArrives level).reports = s.reports ∧
    (s.sampleArrives level).notices = s.notices ∧ (s.sampleArrives level).link = s.link ∧
    (s.sampleArrives level).outputs = s.outputs ∧ (s.sampleArrives level).freeCount = s.freeCount ∧
    (s.sampleArrives level).pending = s.pending := by
  unfold State.sampleArrives
  (repeat' split) <;> simp

@[simp] theorem State.trailerArrives_frame (s : State) (saturated : Bool) :
    (s.trailerArrives saturated).plan = s.plan ∧ (s.trailerArrives saturated).window = s.window ∧
    (s.trailerArrives saturated).baselines = s.baselines ∧ (s.trailerArrives saturated).analyser = s.analyser ∧
    (s.trailerArrives saturated).conditions = s.conditions ∧ (s.trailerArrives saturated).reports = s.reports ∧
    (s.trailerArrives saturated).link = s.link ∧ (s.trailerArrives saturated).freeCount = s.freeCount ∧
    (s.trailerArrives saturated).pending = s.pending := by
  unfold State.trailerArrives
  (repeat' split) <;> simp

@[simp] theorem State.shotExpires_frame (s : State) (tag : Byte) :
    (s.shotExpires tag).plan = s.plan ∧ (s.shotExpires tag).window = s.window ∧
    (s.shotExpires tag).baselines = s.baselines ∧ (s.shotExpires tag).analyser = s.analyser ∧
    (s.shotExpires tag).conditions = s.conditions ∧ (s.shotExpires tag).reports = s.reports ∧
    (s.shotExpires tag).link = s.link ∧ (s.shotExpires tag).freeCount = s.freeCount ∧
    (s.shotExpires tag).pending = s.pending := by
  unfold State.shotExpires
  (repeat' split) <;> simp

@[simp] theorem State.addToBank_frame (s : State) (n : BankName) (bin : Nat) (level : Half) :
    (s.addToBank n bin level).plan = s.plan ∧ (s.addToBank n bin level).window = s.window ∧
    (s.addToBank n bin level).engine = s.engine ∧ (s.addToBank n bin level).port = s.port ∧
    (s.addToBank n bin level).baselines = s.baselines ∧ (s.addToBank n bin level).analyser = s.analyser ∧
    (s.addToBank n bin level).conditions = s.conditions ∧ (s.addToBank n bin level).reports = s.reports ∧
    (s.addToBank n bin level).notices = s.notices ∧ (s.addToBank n bin level).link = s.link ∧
    (s.addToBank n bin level).outputs = s.outputs ∧ (s.addToBank n bin level).freeCount = s.freeCount ∧
    (s.addToBank n bin level).pending = s.pending := by
  simp [State.addToBank]

@[simp] theorem State.sumSample_frame (s : State) :
    s.sumSample.plan = s.plan ∧ s.sumSample.window = s.window ∧ s.sumSample.baselines = s.baselines ∧
    s.sumSample.analyser = s.analyser ∧ s.sumSample.conditions = s.conditions ∧ s.sumSample.reports = s.reports ∧
    s.sumSample.notices = s.notices ∧ s.sumSample.link = s.link ∧ s.sumSample.freeCount = s.freeCount ∧
    s.sumSample.pending = s.pending := by
  unfold State.sumSample
  (repeat' split) <;> simp

@[simp] theorem State.completeAccumulation_frame (s : State) :
    s.completeAccumulation.plan = s.plan ∧ s.completeAccumulation.window = s.window ∧
    s.completeAccumulation.baselines = s.baselines ∧ s.completeAccumulation.analyser = s.analyser ∧
    s.completeAccumulation.conditions = s.conditions ∧ s.completeAccumulation.reports = s.reports ∧
    s.completeAccumulation.notices = s.notices ∧ s.completeAccumulation.link = s.link ∧
    s.completeAccumulation.freeCount = s.freeCount ∧ s.completeAccumulation.pending = s.pending := by
  unfold State.completeAccumulation
  (repeat' split) <;> simp

@[simp] theorem State.statusArrives_frame (s : State) (t : Int) :
    (s.statusArrives t).plan = s.plan ∧ (s.statusArrives t).window = s.window ∧ (s.statusArrives t).banks = s.banks ∧
    (s.statusArrives t).baselines = s.baselines ∧ (s.statusArrives t).analyser = s.analyser ∧
    (s.statusArrives t).conditions = s.conditions ∧ (s.statusArrives t).reports = s.reports ∧
    (s.statusArrives t).link = s.link ∧ (s.statusArrives t).freeCount = s.freeCount ∧
    (s.statusArrives t).pending = s.pending := by
  unfold State.statusArrives
  (repeat' split) <;> simp

@[simp] theorem State.setTime_frame (s : State) (t : TimeOfWeek) :
    (s.setTime t).plan = s.plan ∧ (s.setTime t).engine = s.engine ∧ (s.setTime t).port = s.port ∧
    (s.setTime t).banks = s.banks ∧ (s.setTime t).baselines = s.baselines ∧ (s.setTime t).analyser = s.analyser ∧
    (s.setTime t).conditions = s.conditions ∧ (s.setTime t).reports = s.reports ∧ (s.setTime t).notices = s.notices ∧
    (s.setTime t).link = s.link ∧ (s.setTime t).outputs = s.outputs ∧ (s.setTime t).freeCount = s.freeCount ∧
    (s.setTime t).pending = s.pending := by
  simp [State.setTime]

@[simp] theorem State.putWindowEdge_frame (s : State) (edge : Edge) (cause : EdgeCause) :
    (s.putWindowEdge edge cause).plan = s.plan ∧ (s.putWindowEdge edge cause).window = s.window ∧
    (s.putWindowEdge edge cause).engine = s.engine ∧ (s.putWindowEdge edge cause).port = s.port ∧
    (s.putWindowEdge edge cause).banks = s.banks ∧ (s.putWindowEdge edge cause).baselines = s.baselines ∧
    (s.putWindowEdge edge cause).analyser = s.analyser ∧ (s.putWindowEdge edge cause).conditions = s.conditions ∧
    (s.putWindowEdge edge cause).link = s.link ∧ (s.putWindowEdge edge cause).outputs = s.outputs ∧
    (s.putWindowEdge edge cause).freeCount = s.freeCount ∧ (s.putWindowEdge edge cause).pending = s.pending := by
  simp [State.putWindowEdge]

@[simp] theorem State.enterClosed_frame (s : State) :
    s.enterClosed.plan = s.plan ∧ s.enterClosed.engine = s.engine ∧ s.enterClosed.port = s.port ∧
    s.enterClosed.banks = s.banks ∧ s.enterClosed.baselines = s.baselines ∧ s.enterClosed.analyser = s.analyser ∧
    s.enterClosed.conditions = s.conditions ∧ s.enterClosed.link = s.link ∧ s.enterClosed.outputs = s.outputs ∧
    s.enterClosed.freeCount = s.freeCount ∧ s.enterClosed.pending = s.pending := by
  simp [State.enterClosed]

@[simp] theorem State.openWindow_frame (s : State) (cause : EdgeCause) :
    (s.openWindow cause).port = s.port ∧ (s.openWindow cause).banks = s.banks ∧
    (s.openWindow cause).baselines = s.baselines ∧ (s.openWindow cause).analyser = s.analyser ∧
    (s.openWindow cause).conditions = s.conditions ∧ (s.openWindow cause).link = s.link ∧
    (s.openWindow cause).outputs = s.outputs ∧ (s.openWindow cause).freeCount = s.freeCount ∧
    (s.openWindow cause).pending = s.pending := by
  unfold State.openWindow
  (repeat' split) <;> simp

@[simp] theorem State.graceEnds_frame (s : State) :
    s.graceEnds.plan = s.plan ∧ s.graceEnds.banks = s.banks ∧ s.graceEnds.baselines = s.baselines ∧
    s.graceEnds.analyser = s.analyser ∧ s.graceEnds.conditions = s.conditions ∧ s.graceEnds.link = s.link ∧
    s.graceEnds.outputs = s.outputs ∧ s.graceEnds.freeCount = s.freeCount ∧ s.graceEnds.pending = s.pending := by
  unfold State.graceEnds
  (repeat' split) <;> simp

@[simp] theorem State.enterClosing_frame (s : State) :
    s.enterClosing.plan = s.plan ∧ s.enterClosing.banks = s.banks ∧ s.enterClosing.baselines = s.baselines ∧
    s.enterClosing.analyser = s.analyser ∧ s.enterClosing.conditions = s.conditions ∧ s.enterClosing.link = s.link ∧
    s.enterClosing.outputs = s.outputs ∧ s.enterClosing.freeCount = s.freeCount ∧ s.enterClosing.pending = s.pending := by
  unfold State.enterClosing
  (repeat' split) <;> simp

@[simp] theorem State.shutWindow_frame (s : State) :
    s.shutWindow.plan = s.plan ∧ s.shutWindow.banks = s.banks ∧ s.shutWindow.baselines = s.baselines ∧
    s.shutWindow.analyser = s.analyser ∧ s.shutWindow.conditions = s.conditions ∧ s.shutWindow.link = s.link ∧
    s.shutWindow.outputs = s.outputs ∧ s.shutWindow.freeCount = s.freeCount ∧ s.shutWindow.pending = s.pending := by
  unfold State.shutWindow
  (repeat' split) <;> simp

@[simp] theorem State.leaveOpen_frame (s : State) (cause : EdgeCause) :
    (s.leaveOpen cause).banks = s.banks ∧ (s.leaveOpen cause).baselines = s.baselines ∧
    (s.leaveOpen cause).analyser = s.analyser ∧ (s.leaveOpen cause).conditions = s.conditions ∧
    (s.leaveOpen cause).link = s.link ∧ (s.leaveOpen cause).outputs = s.outputs ∧
    (s.leaveOpen cause).pending = s.pending := by
  unfold State.leaveOpen State.inFreeOrder
  dsimp only
  (repeat' split) <;> simp

@[simp] theorem State.sweepEnded_frame (s : State) :
    s.sweepEnded.plan = s.plan ∧ s.sweepEnded.engine = s.engine ∧ s.sweepEnded.port = s.port ∧
    s.sweepEnded.banks = s.banks ∧ s.sweepEnded.baselines = s.baselines ∧ s.sweepEnded.analyser = s.analyser ∧
    s.sweepEnded.conditions = s.conditions ∧ s.sweepEnded.link = s.link ∧ s.sweepEnded.outputs = s.outputs ∧
    s.sweepEnded.freeCount = s.freeCount ∧ s.sweepEnded.pending = s.pending := by
  unfold State.sweepEnded
  (repeat' split) <;> simp

@[simp] theorem State.evaluateMatches_frame (s : State) (cause : EdgeCause) :
    (s.evaluateMatches cause).banks = s.banks ∧ (s.evaluateMatches cause).baselines = s.baselines ∧
    (s.evaluateMatches cause).analyser = s.analyser ∧ (s.evaluateMatches cause).conditions = s.conditions ∧
    (s.evaluateMatches cause).link = s.link ∧ (s.evaluateMatches cause).outputs = s.outputs ∧
    (s.evaluateMatches cause).pending = s.pending := by
  unfold State.evaluateMatches
  (repeat' split) <;> simp

@[simp] theorem State.secondPasses_frame (s : State) :
    s.secondPasses.banks = s.banks ∧ s.secondPasses.baselines = s.baselines ∧ s.secondPasses.analyser = s.analyser ∧
    s.secondPasses.conditions = s.conditions ∧ s.secondPasses.link = s.link ∧ s.secondPasses.outputs = s.outputs ∧
    s.secondPasses.pending = s.pending := by
  unfold State.secondPasses
  dsimp only
  split <;> simp

@[simp] theorem State.secondEvent_frame (s : State) :
    s.secondEvent.banks = s.banks ∧ s.secondEvent.baselines = s.baselines ∧ s.secondEvent.analyser = s.analyser ∧
    s.secondEvent.conditions = s.conditions ∧ s.secondEvent.link = s.link ∧ s.secondEvent.outputs = s.outputs ∧
    s.secondEvent.pending = s.pending := by
  unfold State.secondEvent
  (repeat' split) <;> simp

@[simp] theorem State.refclkEdge_frame (s : State) :
    s.refclkEdge.banks = s.banks ∧ s.refclkEdge.baselines = s.baselines ∧ s.refclkEdge.analyser = s.analyser ∧
    s.refclkEdge.conditions = s.conditions ∧ s.refclkEdge.link = s.link ∧ s.refclkEdge.outputs = s.outputs ∧
    s.refclkEdge.pending = s.pending := by
  unfold State.refclkEdge
  (repeat' split) <;> simp

@[simp] theorem State.referenceLost_frame (s : State) :
    s.referenceLost.banks = s.banks ∧ s.referenceLost.baselines = s.baselines ∧
    s.referenceLost.analyser = s.analyser ∧ s.referenceLost.conditions = s.conditions ∧
    s.referenceLost.link = s.link ∧ s.referenceLost.outputs = s.outputs ∧ s.referenceLost.pending = s.pending := by
  unfold State.referenceLost
  (repeat' split) <;> simp

@[simp] theorem State.referencePresent_frame (s : State) :
    s.referencePresent.plan = s.plan ∧ s.referencePresent.engine = s.engine ∧ s.referencePresent.port = s.port ∧
    s.referencePresent.banks = s.banks ∧ s.referencePresent.baselines = s.baselines ∧
    s.referencePresent.analyser = s.analyser ∧ s.referencePresent.conditions = s.conditions ∧
    s.referencePresent.reports = s.reports ∧ s.referencePresent.notices = s.notices ∧
    s.referencePresent.link = s.link ∧ s.referencePresent.outputs = s.outputs ∧
    s.referencePresent.freeCount = s.freeCount ∧ s.referencePresent.pending = s.pending := by
  simp [State.referencePresent]

@[simp] theorem State.graceExpires_frame (s : State) :
    s.graceExpires.plan = s.plan ∧ s.graceExpires.banks = s.banks ∧ s.graceExpires.baselines = s.baselines ∧
    s.graceExpires.analyser = s.analyser ∧ s.graceExpires.conditions = s.conditions ∧ s.graceExpires.link = s.link ∧
    s.graceExpires.outputs = s.outputs ∧ s.graceExpires.freeCount = s.freeCount ∧ s.graceExpires.pending = s.pending := by
  unfold State.graceExpires
  (repeat' split) <;> simp

@[simp] theorem State.clockSet_frame (s : State) (day hour minute second : Byte) :
    (s.clockSet day hour minute second).state.plan = s.plan ∧
    (s.clockSet day hour minute second).state.engine = s.engine ∧
    (s.clockSet day hour minute second).state.port = s.port ∧
    (s.clockSet day hour minute second).state.banks = s.banks ∧
    (s.clockSet day hour minute second).state.baselines = s.baselines ∧
    (s.clockSet day hour minute second).state.analyser = s.analyser ∧
    (s.clockSet day hour minute second).state.conditions = s.conditions ∧
    (s.clockSet day hour minute second).state.reports = s.reports ∧
    (s.clockSet day hour minute second).state.notices = s.notices ∧
    (s.clockSet day hour minute second).state.link = s.link ∧
    (s.clockSet day hour minute second).state.outputs = s.outputs ∧
    (s.clockSet day hour minute second).state.freeCount = s.freeCount ∧
    (s.clockSet day hour minute second).state.pending = s.pending := by
  unfold State.clockSet
  (repeat' split) <;> simp

@[simp] theorem State.clockRead_frame (s : State) :
    s.clockRead.state.plan = s.plan ∧ s.clockRead.state.window = s.window ∧ s.clockRead.state.engine = s.engine ∧
    s.clockRead.state.port = s.port ∧ s.clockRead.state.banks = s.banks ∧ s.clockRead.state.baselines = s.baselines ∧
    s.clockRead.state.analyser = s.analyser ∧ s.clockRead.state.conditions = s.conditions ∧
    s.clockRead.state.reports = s.reports ∧ s.clockRead.state.notices = s.notices ∧ s.clockRead.state.link = s.link ∧
    s.clockRead.state.outputs = s.outputs ∧ s.clockRead.state.pending = s.pending := by
  simp [State.clockRead]

@[simp] theorem State.windowSet_frame (s : State) (mask openHour openMinute closeHour closeMinute : Byte) :
    (s.windowSet mask openHour openMinute closeHour closeMinute).state.plan = s.plan ∧
    (s.windowSet mask openHour openMinute closeHour closeMinute).state.engine = s.engine ∧
    (s.windowSet mask openHour openMinute closeHour closeMinute).state.port = s.port ∧
    (s.windowSet mask openHour openMinute closeHour closeMinute).state.banks = s.banks ∧
    (s.windowSet mask openHour openMinute closeHour closeMinute).state.baselines = s.baselines ∧
    (s.windowSet mask openHour openMinute closeHour closeMinute).state.analyser = s.analyser ∧
    (s.windowSet mask openHour openMinute closeHour closeMinute).state.conditions = s.conditions ∧
    (s.windowSet mask openHour openMinute closeHour closeMinute).state.reports = s.reports ∧
    (s.windowSet mask openHour openMinute closeHour closeMinute).state.notices = s.notices ∧
    (s.windowSet mask openHour openMinute closeHour closeMinute).state.link = s.link ∧
    (s.windowSet mask openHour openMinute closeHour closeMinute).state.outputs = s.outputs ∧
    (s.windowSet mask openHour openMinute closeHour closeMinute).state.freeCount = s.freeCount ∧
    (s.windowSet mask openHour openMinute closeHour closeMinute).state.pending = s.pending := by
  unfold State.windowSet
  (repeat' split) <;> simp

@[simp] theorem State.enterMode_frame (s : State) (y0 : WindowMode) :
    (s.enterMode y0).banks = s.banks ∧ (s.enterMode y0).baselines = s.baselines ∧
    (s.enterMode y0).analyser = s.analyser ∧ (s.enterMode y0).conditions = s.conditions ∧
    (s.enterMode y0).link = s.link ∧ (s.enterMode y0).outputs = s.outputs ∧ (s.enterMode y0).pending = s.pending := by
  unfold State.enterMode
  (repeat' split) <;> simp

@[simp] theorem State.setWindowMode_frame (s : State) (mode : Byte) :
    (s.setWindowMode mode).state.banks = s.banks ∧ (s.setWindowMode mode).state.baselines = s.baselines ∧
    (s.setWindowMode mode).state.analyser = s.analyser ∧ (s.setWindowMode mode).state.conditions = s.conditions ∧
    (s.setWindowMode mode).state.link = s.link ∧ (s.setWindowMode mode).state.outputs = s.outputs ∧
    (s.setWindowMode mode).state.pending = s.pending := by
  unfold State.setWindowMode
  (repeat' split) <;> simp

@[simp] theorem State.freeBank_frame (s : State) (n : BankName) :
    (s.freeBank n).plan = s.plan ∧ (s.freeBank n).window = s.window ∧ (s.freeBank n).port = s.port ∧
    (s.freeBank n).baselines = s.baselines ∧ (s.freeBank n).analyser = s.analyser ∧
    (s.freeBank n).conditions = s.conditions ∧ (s.freeBank n).reports = s.reports ∧ (s.freeBank n).link = s.link ∧
    (s.freeBank n).outputs = s.outputs ∧ (s.freeBank n).freeCount = s.freeCount ∧ (s.freeBank n).pending = s.pending := by
  unfold State.freeBank
  (repeat' split) <;> simp

@[simp] theorem State.backToHeld_frame (s : State) (n : BankName) :
    (s.backToHeld n).plan = s.plan ∧ (s.backToHeld n).window = s.window ∧ (s.backToHeld n).port = s.port ∧
    (s.backToHeld n).baselines = s.baselines ∧ (s.backToHeld n).analyser = s.analyser ∧
    (s.backToHeld n).conditions = s.conditions ∧ (s.backToHeld n).reports = s.reports ∧
    (s.backToHeld n).link = s.link ∧ (s.backToHeld n).outputs = s.outputs ∧
    (s.backToHeld n).freeCount = s.freeCount ∧ (s.backToHeld n).pending = s.pending := by
  unfold State.backToHeld
  (repeat' split) <;> simp

@[simp] theorem State.claimBank_frame (s : State) (n : BankName) (c : SweepContext) :
    (s.claimBank n c).plan = s.plan ∧ (s.claimBank n c).window = s.window ∧ (s.claimBank n c).engine = s.engine ∧
    (s.claimBank n c).port = s.port ∧ (s.claimBank n c).baselines = s.baselines ∧
    (s.claimBank n c).analyser = s.analyser ∧ (s.claimBank n c).conditions = s.conditions ∧
    (s.claimBank n c).reports = s.reports ∧ (s.claimBank n c).notices = s.notices ∧ (s.claimBank n c).link = s.link ∧
    (s.claimBank n c).outputs = s.outputs ∧ (s.claimBank n c).freeCount = s.freeCount ∧
    (s.claimBank n c).pending = s.pending := by
  simp [State.claimBank]

@[simp] theorem State.fillBank_frame (s : State) (n : BankName) :
    (s.fillBank n).plan = s.plan ∧ (s.fillBank n).window = s.window ∧ (s.fillBank n).engine = s.engine ∧
    (s.fillBank n).port = s.port ∧ (s.fillBank n).baselines = s.baselines ∧ (s.fillBank n).analyser = s.analyser ∧
    (s.fillBank n).conditions = s.conditions ∧ (s.fillBank n).reports = s.reports ∧
    (s.fillBank n).notices = s.notices ∧ (s.fillBank n).link = s.link ∧ (s.fillBank n).outputs = s.outputs ∧
    (s.fillBank n).freeCount = s.freeCount ∧ (s.fillBank n).pending = s.pending := by
  simp [State.fillBank]

@[simp] theorem State.retainRequest_frame (s : State) (span : Byte) :
    (s.retainRequest span).state.plan = s.plan ∧ (s.retainRequest span).state.window = s.window ∧
    (s.retainRequest span).state.engine = s.engine ∧ (s.retainRequest span).state.port = s.port ∧
    (s.retainRequest span).state.baselines = s.baselines ∧ (s.retainRequest span).state.analyser = s.analyser ∧
    (s.retainRequest span).state.conditions = s.conditions ∧ (s.retainRequest span).state.reports = s.reports ∧
    (s.retainRequest span).state.notices = s.notices ∧ (s.retainRequest span).state.link = s.link ∧
    (s.retainRequest span).state.outputs = s.outputs ∧ (s.retainRequest span).state.freeCount = s.freeCount ∧
    (s.retainRequest span).state.pending = s.pending := by
  unfold State.retainRequest
  (repeat' split) <;> simp

@[simp] theorem State.holdBank_frame (s : State) (n : BankName) :
    (s.holdBank n).plan = s.plan ∧ (s.holdBank n).window = s.window ∧ (s.holdBank n).engine = s.engine ∧
    (s.holdBank n).port = s.port ∧ (s.holdBank n).baselines = s.baselines ∧ (s.holdBank n).analyser = s.analyser ∧
    (s.holdBank n).conditions = s.conditions ∧ (s.holdBank n).reports = s.reports ∧ (s.holdBank n).link = s.link ∧
    (s.holdBank n).outputs = s.outputs ∧ (s.holdBank n).freeCount = s.freeCount ∧ (s.holdBank n).pending = s.pending := by
  simp [State.holdBank]

@[simp] theorem State.settleBank_frame (s : State) (n : BankName) (c : SweepContext) :
    (s.settleBank n c).plan = s.plan ∧ (s.settleBank n c).window = s.window ∧ (s.settleBank n c).port = s.port ∧
    (s.settleBank n c).baselines = s.baselines ∧ (s.settleBank n c).analyser = s.analyser ∧
    (s.settleBank n c).conditions = s.conditions ∧ (s.settleBank n c).reports = s.reports ∧
    (s.settleBank n c).link = s.link ∧ (s.settleBank n c).outputs = s.outputs ∧
    (s.settleBank n c).freeCount = s.freeCount ∧ (s.settleBank n c).pending = s.pending := by
  unfold State.settleBank
  (repeat' split) <;> simp

@[simp] theorem State.holdExpires_frame (s : State) (n : BankName) :
    (s.holdExpires n).plan = s.plan ∧ (s.holdExpires n).window = s.window ∧ (s.holdExpires n).port = s.port ∧
    (s.holdExpires n).baselines = s.baselines ∧ (s.holdExpires n).analyser = s.analyser ∧
    (s.holdExpires n).conditions = s.conditions ∧ (s.holdExpires n).reports = s.reports ∧
    (s.holdExpires n).link = s.link ∧ (s.holdExpires n).outputs = s.outputs ∧
    (s.holdExpires n).freeCount = s.freeCount ∧ (s.holdExpires n).pending = s.pending := by
  unfold State.holdExpires
  (repeat' split) <;> simp

@[simp] theorem State.traceExport_frame (s : State) (tag : Byte) (start count : Half) :
    (s.traceExport tag start count).state.plan = s.plan ∧ (s.traceExport tag start count).state.window = s.window ∧
    (s.traceExport tag start count).state.engine = s.engine ∧ (s.traceExport tag start count).state.port = s.port ∧
    (s.traceExport tag start count).state.baselines = s.baselines ∧
    (s.traceExport tag start count).state.analyser = s.analyser ∧
    (s.traceExport tag start count).state.conditions = s.conditions ∧
    (s.traceExport tag start count).state.reports = s.reports ∧
    (s.traceExport tag start count).state.notices = s.notices ∧ (s.traceExport tag start count).state.link = s.link ∧
    (s.traceExport tag start count).state.outputs = s.outputs ∧
    (s.traceExport tag start count).state.freeCount = s.freeCount ∧
    (s.traceExport tag start count).state.pending = s.pending := by
  unfold State.traceExport
  (repeat' split) <;> simp

@[simp] theorem State.exportBegins_frame (s : State) (f : ExportFrame) :
    (s.exportBegins f).plan = s.plan ∧ (s.exportBegins f).window = s.window ∧ (s.exportBegins f).engine = s.engine ∧
    (s.exportBegins f).port = s.port ∧ (s.exportBegins f).baselines = s.baselines ∧
    (s.exportBegins f).analyser = s.analyser ∧ (s.exportBegins f).conditions = s.conditions ∧
    (s.exportBegins f).reports = s.reports ∧ (s.exportBegins f).notices = s.notices ∧
    (s.exportBegins f).link = s.link ∧ (s.exportBegins f).outputs = s.outputs ∧
    (s.exportBegins f).freeCount = s.freeCount ∧ (s.exportBegins f).pending = s.pending := by
  unfold State.exportBegins
  (repeat' split) <;> simp

@[simp] theorem State.exportSent_frame (s : State) (f : ExportFrame) :
    (s.exportSent f).plan = s.plan ∧ (s.exportSent f).window = s.window ∧ (s.exportSent f).port = s.port ∧
    (s.exportSent f).baselines = s.baselines ∧ (s.exportSent f).analyser = s.analyser ∧
    (s.exportSent f).conditions = s.conditions ∧ (s.exportSent f).reports = s.reports ∧
    (s.exportSent f).link = s.link ∧ (s.exportSent f).outputs = s.outputs ∧
    (s.exportSent f).freeCount = s.freeCount ∧ (s.exportSent f).pending = s.pending := by
  unfold State.exportSent
  (repeat' split) <;> simp

@[simp] theorem State.reanalyse_frame (s : State) (profile : Byte) :
    (s.reanalyse profile).state.plan = s.plan ∧ (s.reanalyse profile).state.window = s.window ∧
    (s.reanalyse profile).state.engine = s.engine ∧ (s.reanalyse profile).state.port = s.port ∧
    (s.reanalyse profile).state.baselines = s.baselines ∧ (s.reanalyse profile).state.analyser = s.analyser ∧
    (s.reanalyse profile).state.conditions = s.conditions ∧ (s.reanalyse profile).state.notices = s.notices ∧
    (s.reanalyse profile).state.link = s.link ∧ (s.reanalyse profile).state.outputs = s.outputs ∧
    (s.reanalyse profile).state.freeCount = s.freeCount ∧ (s.reanalyse profile).state.pending = s.pending := by
  unfold State.reanalyse
  (repeat' split) <;> simp

@[simp] theorem State.releaseBank_frame (s : State) (n : BankName) :
    (s.releaseBank n).plan = s.plan ∧ (s.releaseBank n).window = s.window ∧ (s.releaseBank n).port = s.port ∧
    (s.releaseBank n).baselines = s.baselines ∧ (s.releaseBank n).analyser = s.analyser ∧
    (s.releaseBank n).conditions = s.conditions ∧ (s.releaseBank n).reports = s.reports ∧
    (s.releaseBank n).link = s.link ∧ (s.releaseBank n).outputs = s.outputs ∧
    (s.releaseBank n).freeCount = s.freeCount ∧ (s.releaseBank n).pending = s.pending := by
  unfold State.releaseBank
  (repeat' split) <;> simp

@[simp] theorem State.bankRelease_frame (s : State) :
    s.bankRelease.state.plan = s.plan ∧ s.bankRelease.state.window = s.window ∧ s.bankRelease.state.port = s.port ∧
    s.bankRelease.state.baselines = s.baselines ∧ s.bankRelease.state.analyser = s.analyser ∧
    s.bankRelease.state.conditions = s.conditions ∧ s.bankRelease.state.reports = s.reports ∧
    s.bankRelease.state.link = s.link ∧ s.bankRelease.state.outputs = s.outputs ∧
    s.bankRelease.state.freeCount = s.freeCount ∧ s.bankRelease.state.pending = s.pending := by
  unfold State.bankRelease
  (repeat' split) <;> simp

theorem State.takePlanSource_frame {s t : State} {x : Source} (h : s.takePlanSource = some (t, x)) :
    t.window = s.window ∧ t.port = s.port ∧ t.banks = s.banks ∧ t.baselines = s.baselines ∧ t.analyser = s.analyser ∧
    t.conditions = s.conditions ∧ t.link = s.link ∧ t.outputs = s.outputs ∧ t.freeCount = s.freeCount ∧
    t.pending = s.pending := by
  unfold State.takePlanSource at h
  split at h
  · rename_i u sp hu
    simp at h
    obtain ⟨rfl, rfl⟩ := h
    exact State.takePlanSpan_frame hu
  · simp at h

theorem State.takeQueueSource_frame {s t : State} {x : Source} (h : s.takeQueueSource = some (t, x)) :
    t.window = s.window ∧ t.port = s.port ∧ t.banks = s.banks ∧ t.baselines = s.baselines ∧ t.analyser = s.analyser ∧
    t.link = s.link ∧ t.outputs = s.outputs ∧ t.freeCount = s.freeCount ∧ t.pending = s.pending := by
  unfold State.takeQueueSource at h
  (repeat' split at h) <;> first
    | (simp at h; done)
    | (have := State.takePlanSource_frame h; simp [this])
    | (simp at h; obtain ⟨rfl, rfl⟩ := h; simp)

theorem State.takeSource_frame {s t : State} {x : Source} (h : s.takeSource = some (t, x)) :
    t.window = s.window ∧ t.port = s.port ∧ t.banks = s.banks ∧ t.baselines = s.baselines ∧ t.analyser = s.analyser ∧
    t.link = s.link ∧ t.outputs = s.outputs ∧ t.freeCount = s.freeCount ∧ t.pending = s.pending := by
  unfold State.takeSource at h
  split at h
  · simp at h
    obtain ⟨rfl, rfl⟩ := h
    simp
  · exact ⟨by simp [State.takeQueueSource_frame h], by simp [State.takeQueueSource_frame h]⟩

@[simp] theorem State.beginSweep_frame (s : State) (x : Source) (n : BankName) :
    (s.beginSweep x n).window = s.window ∧ (s.beginSweep x n).baselines = s.baselines ∧
    (s.beginSweep x n).analyser = s.analyser ∧ (s.beginSweep x n).conditions = s.conditions ∧
    (s.beginSweep x n).notices = s.notices ∧ (s.beginSweep x n).link = s.link ∧
    (s.beginSweep x n).freeCount = s.freeCount ∧ (s.beginSweep x n).pending = s.pending := by
  simp [State.beginSweep]

@[simp] theorem State.sweepStart_frame (s : State) :
    s.sweepStart.window = s.window ∧ s.sweepStart.baselines = s.baselines ∧ s.sweepStart.analyser = s.analyser ∧
    s.sweepStart.link = s.link ∧ s.sweepStart.freeCount = s.freeCount ∧ s.sweepStart.pending = s.pending := by
  unfold State.sweepStart
  split
  · simp
  · split
    · split
      · rename_i h
        simp [State.takeSource_frame h]
      · simp
    · simp

@[simp] theorem State.dropSweep_frame (s : State) :
    s.dropSweep.plan = s.plan ∧ s.dropSweep.window = s.window ∧ s.dropSweep.port = s.port ∧
    s.dropSweep.banks = s.banks ∧ s.dropSweep.baselines = s.baselines ∧ s.dropSweep.analyser = s.analyser ∧
    s.dropSweep.conditions = s.conditions ∧ s.dropSweep.reports = s.reports ∧ s.dropSweep.notices = s.notices ∧
    s.dropSweep.link = s.link ∧ s.dropSweep.outputs = s.outputs ∧ s.dropSweep.freeCount = s.freeCount ∧
    s.dropSweep.pending = s.pending := by
  simp [State.dropSweep]

@[simp] theorem State.sweepComplete_frame (s : State) :
    s.sweepComplete.plan = s.plan ∧ s.sweepComplete.port = s.port ∧ s.sweepComplete.baselines = s.baselines ∧
    s.sweepComplete.analyser = s.analyser ∧ s.sweepComplete.conditions = s.conditions ∧
    s.sweepComplete.link = s.link ∧ s.sweepComplete.outputs = s.outputs ∧ s.sweepComplete.freeCount = s.freeCount ∧
    s.sweepComplete.pending = s.pending := by
  unfold State.sweepComplete
  (repeat' split) <;> simp

@[simp] theorem State.giveBack_frame (s : State) (c : SweepContext) (o : EngineOutcome) :
    (s.giveBack c o).plan = s.plan ∧ (s.giveBack c o).window = s.window ∧ (s.giveBack c o).port = s.port ∧
    (s.giveBack c o).banks = s.banks ∧ (s.giveBack c o).baselines = s.baselines ∧
    (s.giveBack c o).analyser = s.analyser ∧ (s.giveBack c o).reports = s.reports ∧ (s.giveBack c o).link = s.link ∧
    (s.giveBack c o).outputs = s.outputs ∧ (s.giveBack c o).freeCount = s.freeCount ∧
    (s.giveBack c o).pending = s.pending := by
  unfold State.giveBack
  (repeat' split) <;> simp

@[simp] theorem State.tellEnd_frame (s : State) (c : SweepContext) :
    (s.tellEnd c).engine = s.engine ∧ (s.tellEnd c).port = s.port ∧ (s.tellEnd c).banks = s.banks ∧
    (s.tellEnd c).baselines = s.baselines ∧ (s.tellEnd c).analyser = s.analyser ∧
    (s.tellEnd c).conditions = s.conditions ∧ (s.tellEnd c).link = s.link ∧ (s.tellEnd c).outputs = s.outputs ∧
    (s.tellEnd c).pending = s.pending := by
  unfold State.tellEnd State.inFreeOrder
  split <;> simp

@[simp] theorem State.closeSweep_frame (s : State) (n : BankName) (c : SweepContext) (o : EngineOutcome) :
    (s.closeSweep n c o).port = s.port ∧ (s.closeSweep n c o).baselines = s.baselines ∧
    (s.closeSweep n c o).analyser = s.analyser ∧ (s.closeSweep n c o).link = s.link ∧
    (s.closeSweep n c o).outputs = s.outputs ∧ (s.closeSweep n c o).pending = s.pending := by
  simp [State.closeSweep]

@[simp] theorem State.closingActions_frame (s : State) :
    s.closingActions.port = s.port ∧ s.closingActions.baselines = s.baselines ∧
    s.closingActions.analyser = s.analyser ∧ s.closingActions.link = s.link ∧ s.closingActions.outputs = s.outputs ∧
    s.closingActions.pending = s.pending := by
  unfold State.closingActions
  (repeat' split) <;> simp

@[simp] theorem State.closeDecided_frame (s now : State) :
    (s.closeDecided now).port = now.port ∧ (s.closeDecided now).baselines = now.baselines ∧
    (s.closeDecided now).analyser = now.analyser ∧ (s.closeDecided now).link = now.link ∧
    (s.closeDecided now).outputs = now.outputs ∧ (s.closeDecided now).pending = now.pending := by
  unfold State.closeDecided
  split <;> simp

@[simp] theorem State.replayBoundary_frame (s : State) (x : TimeOfWeek) :
    (s.replayBoundary x).baselines = s.baselines ∧ (s.replayBoundary x).analyser = s.analyser ∧
    (s.replayBoundary x).link = s.link ∧ (s.replayBoundary x).outputs = s.outputs ∧
    (s.replayBoundary x).pending = s.pending := by
  simp [State.replayBoundary]

@[simp] theorem State.replay_frame (s : State) (n m : Nat) :
    (s.replay n m).baselines = s.baselines ∧ (s.replay n m).analyser = s.analyser ∧
    (s.replay n m).link = s.link ∧ (s.replay n m).outputs = s.outputs ∧ (s.replay n m).pending = s.pending := by
  induction n generalizing s m with
  | zero => simp [State.replay]
  | succ n ih => simp [State.replay, ih]

@[simp] theorem State.stepForward_frame (s : State) (k : Nat) :
    (s.stepForward k).baselines = s.baselines ∧ (s.stepForward k).analyser = s.analyser ∧
    (s.stepForward k).link = s.link ∧ (s.stepForward k).outputs = s.outputs ∧ (s.stepForward k).pending = s.pending := by
  simp [State.stepForward]

@[simp] theorem State.stepBack_frame (s : State) (k : Nat) :
    (s.stepBack k).plan = s.plan ∧ (s.stepBack k).engine = s.engine ∧ (s.stepBack k).port = s.port ∧
    (s.stepBack k).banks = s.banks ∧ (s.stepBack k).baselines = s.baselines ∧ (s.stepBack k).analyser = s.analyser ∧
    (s.stepBack k).conditions = s.conditions ∧ (s.stepBack k).reports = s.reports ∧
    (s.stepBack k).notices = s.notices ∧ (s.stepBack k).link = s.link ∧ (s.stepBack k).outputs = s.outputs ∧
    (s.stepBack k).freeCount = s.freeCount ∧ (s.stepBack k).pending = s.pending := by
  simp [State.stepBack]

@[simp] theorem State.clockStep_frame (s : State) (seconds : Half) :
    (s.clockStep seconds).state.baselines = s.baselines ∧ (s.clockStep seconds).state.analyser = s.analyser ∧
    (s.clockStep seconds).state.link = s.link ∧ (s.clockStep seconds).state.outputs = s.outputs ∧
    (s.clockStep seconds).state.pending = s.pending := by
  unfold State.clockStep
  (repeat' split) <;> simp

@[simp] theorem State.fillSlot_frame (s : State) (sp : Span) :
    (s.fillSlot sp).plan = s.plan ∧ (s.fillSlot sp).window = s.window ∧ (s.fillSlot sp).port = s.port ∧
    (s.fillSlot sp).banks = s.banks ∧ (s.fillSlot sp).baselines = s.baselines ∧
    (s.fillSlot sp).analyser = s.analyser ∧ (s.fillSlot sp).conditions = s.conditions ∧
    (s.fillSlot sp).reports = s.reports ∧ (s.fillSlot sp).notices = s.notices ∧ (s.fillSlot sp).link = s.link ∧
    (s.fillSlot sp).outputs = s.outputs ∧ (s.fillSlot sp).freeCount = s.freeCount ∧
    (s.fillSlot sp).pending = s.pending := by
  simp [State.fillSlot]

@[simp] theorem State.preempt_frame (s : State) (c : SweepContext) :
    (s.preempt c).plan = s.plan ∧ (s.preempt c).window = s.window ∧ (s.preempt c).banks = s.banks ∧
    (s.preempt c).baselines = s.baselines ∧ (s.preempt c).analyser = s.analyser ∧ (s.preempt c).reports = s.reports ∧
    (s.preempt c).link = s.link ∧ (s.preempt c).outputs = s.outputs ∧ (s.preempt c).freeCount = s.freeCount ∧
    (s.preempt c).pending = s.pending := by
  simp [State.preempt]

@[simp] theorem State.convert_frame (s : State) (c : SweepContext) (retain : Bool) :
    (s.convert c retain).plan = s.plan ∧ (s.convert c retain).window = s.window ∧
    (s.convert c retain).engine = s.engine ∧ (s.convert c retain).port = s.port ∧
    (s.convert c retain).baselines = s.baselines ∧ (s.convert c retain).analyser = s.analyser ∧
    (s.convert c retain).conditions = s.conditions ∧ (s.convert c retain).reports = s.reports ∧
    (s.convert c retain).notices = s.notices ∧ (s.convert c retain).link = s.link ∧
    (s.convert c retain).outputs = s.outputs ∧ (s.convert c retain).freeCount = s.freeCount ∧
    (s.convert c retain).pending = s.pending := by
  simp [State.convert]

@[simp] theorem State.serveTest_frame (s : State) (sp : Span) (retain : Bool) :
    (s.serveTest sp retain).plan = s.plan ∧ (s.serveTest sp retain).window = s.window ∧
    (s.serveTest sp retain).baselines = s.baselines ∧ (s.serveTest sp retain).analyser = s.analyser ∧
    (s.serveTest sp retain).reports = s.reports ∧ (s.serveTest sp retain).link = s.link ∧
    (s.serveTest sp retain).outputs = s.outputs ∧ (s.serveTest sp retain).freeCount = s.freeCount ∧
    (s.serveTest sp retain).pending = s.pending := by
  unfold State.serveTest
  (repeat' split) <;> simp

@[simp] theorem State.placeRetain_frame (s : State) (sp : Span) (retain : Bool) :
    (s.placeRetain sp retain).plan = s.plan ∧ (s.placeRetain sp retain).window = s.window ∧
    (s.placeRetain sp retain).engine = s.engine ∧ (s.placeRetain sp retain).port = s.port ∧
    (s.placeRetain sp retain).baselines = s.baselines ∧ (s.placeRetain sp retain).analyser = s.analyser ∧
    (s.placeRetain sp retain).conditions = s.conditions ∧ (s.placeRetain sp retain).reports = s.reports ∧
    (s.placeRetain sp retain).notices = s.notices ∧ (s.placeRetain sp retain).link = s.link ∧
    (s.placeRetain sp retain).outputs = s.outputs ∧ (s.placeRetain sp retain).freeCount = s.freeCount ∧
    (s.placeRetain sp retain).pending = s.pending := by
  unfold State.placeRetain
  (repeat' split) <;> simp

@[simp] theorem State.testNow_frame (s : State) (span retain : Byte) :
    (s.testNow span retain).state.plan = s.plan ∧ (s.testNow span retain).state.window = s.window ∧
    (s.testNow span retain).state.baselines = s.baselines ∧ (s.testNow span retain).state.analyser = s.analyser ∧
    (s.testNow span retain).state.reports = s.reports ∧ (s.testNow span retain).state.link = s.link ∧
    (s.testNow span retain).state.outputs = s.outputs ∧ (s.testNow span retain).state.freeCount = s.freeCount ∧
    (s.testNow span retain).state.pending = s.pending := by
  unfold State.testNow
  (repeat' split) <;> simp

@[simp] theorem State.setBack_frame (s : State) (sp : Span) :
    (s.setBack sp).plan = s.plan ∧ (s.setBack sp).window = s.window ∧ (s.setBack sp).port = s.port ∧
    (s.setBack sp).banks = s.banks ∧ (s.setBack sp).baselines = s.baselines ∧ (s.setBack sp).analyser = s.analyser ∧
    (s.setBack sp).reports = s.reports ∧ (s.setBack sp).notices = s.notices ∧ (s.setBack sp).link = s.link ∧
    (s.setBack sp).outputs = s.outputs ∧ (s.setBack sp).freeCount = s.freeCount ∧ (s.setBack sp).pending = s.pending := by
  simp [State.setBack]

@[simp] theorem State.baselineLoad_frame (s : State) (span cls binLength : Byte) (launch endBin : Half) (zones : List ZoneWords) :
    (s.baselineLoad span cls binLength launch endBin zones).state.plan = s.plan ∧
    (s.baselineLoad span cls binLength launch endBin zones).state.window = s.window ∧
    (s.baselineLoad span cls binLength launch endBin zones).state.port = s.port ∧
    (s.baselineLoad span cls binLength launch endBin zones).state.banks = s.banks ∧
    (s.baselineLoad span cls binLength launch endBin zones).state.analyser = s.analyser ∧
    (s.baselineLoad span cls binLength launch endBin zones).state.reports = s.reports ∧
    (s.baselineLoad span cls binLength launch endBin zones).state.notices = s.notices ∧
    (s.baselineLoad span cls binLength launch endBin zones).state.link = s.link ∧
    (s.baselineLoad span cls binLength launch endBin zones).state.outputs = s.outputs ∧
    (s.baselineLoad span cls binLength launch endBin zones).state.freeCount = s.freeCount ∧
    (s.baselineLoad span cls binLength launch endBin zones).state.pending = s.pending := by
  unfold State.baselineLoad
  (repeat' split) <;> simp

@[simp] theorem State.baselineDrop_frame (s : State) (span : Byte) :
    (s.baselineDrop span).state.plan = s.plan ∧ (s.baselineDrop span).state.window = s.window ∧
    (s.baselineDrop span).state.port = s.port ∧ (s.baselineDrop span).state.banks = s.banks ∧
    (s.baselineDrop span).state.analyser = s.analyser ∧ (s.baselineDrop span).state.reports = s.reports ∧
    (s.baselineDrop span).state.notices = s.notices ∧ (s.baselineDrop span).state.link = s.link ∧
    (s.baselineDrop span).state.outputs = s.outputs ∧ (s.baselineDrop span).state.freeCount = s.freeCount ∧
    (s.baselineDrop span).state.pending = s.pending := by
  unfold State.baselineDrop
  (repeat' split) <;> simp

@[simp] theorem State.baselineRead_frame (s : State) (span : Byte) :
    (s.baselineRead span).state.plan = s.plan ∧ (s.baselineRead span).state.window = s.window ∧
    (s.baselineRead span).state.engine = s.engine ∧ (s.baselineRead span).state.port = s.port ∧
    (s.baselineRead span).state.banks = s.banks ∧ (s.baselineRead span).state.baselines = s.baselines ∧
    (s.baselineRead span).state.analyser = s.analyser ∧ (s.baselineRead span).state.conditions = s.conditions ∧
    (s.baselineRead span).state.reports = s.reports ∧ (s.baselineRead span).state.notices = s.notices ∧
    (s.baselineRead span).state.link = s.link ∧ (s.baselineRead span).state.outputs = s.outputs ∧
    (s.baselineRead span).state.freeCount = s.freeCount ∧ (s.baselineRead span).state.pending = s.pending := by
  unfold State.baselineRead
  (repeat' split) <;> simp

@[simp] theorem State.profileWrite_frame (s : State) (profile : Byte) (floor : Half) (persistence stepGap : Byte) (bend grown breakDrop : Half) (tolerance blind confirm clearCount : Byte) :

    (s.profileWrite profile floor persistence stepGap bend grown breakDrop tolerance blind confirm clearCount).state.plan = s.plan ∧
    (s.profileWrite profile floor persistence stepGap bend grown breakDrop tolerance blind confirm clearCount).state.window = s.window ∧
    (s.profileWrite profile floor persistence stepGap bend grown breakDrop tolerance blind confirm clearCount).state.engine = s.engine ∧
    (s.profileWrite profile floor persistence stepGap bend grown breakDrop tolerance blind confirm clearCount).state.port = s.port ∧
    (s.profileWrite profile floor persistence stepGap bend grown breakDrop tolerance blind confirm clearCount).state.banks = s.banks ∧
    (s.profileWrite profile floor persistence stepGap bend grown breakDrop tolerance blind confirm clearCount).state.baselines = s.baselines ∧
    (s.profileWrite profile floor persistence stepGap bend grown breakDrop tolerance blind confirm clearCount).state.conditions = s.conditions ∧
    (s.profileWrite profile floor persistence stepGap bend grown breakDrop tolerance blind confirm clearCount).state.reports = s.reports ∧
    (s.profileWrite profile floor persistence stepGap bend grown breakDrop tolerance blind confirm clearCount).state.notices = s.notices ∧
    (s.profileWrite profile floor persistence stepGap bend grown breakDrop tolerance blind confirm clearCount).state.link = s.link ∧
    (s.profileWrite profile floor persistence stepGap bend grown breakDrop tolerance blind confirm clearCount).state.outputs = s.outputs ∧
    (s.profileWrite profile floor persistence stepGap bend grown breakDrop tolerance blind confirm clearCount).state.freeCount = s.freeCount ∧
    (s.profileWrite profile floor persistence stepGap bend grown breakDrop tolerance blind confirm clearCount).state.pending = s.pending := by
  unfold State.profileWrite
  (repeat' split) <;> simp

@[simp] theorem State.profileRead_frame (s : State) (profile : Byte) :
    (s.profileRead profile).state.plan = s.plan ∧ (s.profileRead profile).state.window = s.window ∧
    (s.profileRead profile).state.engine = s.engine ∧ (s.profileRead profile).state.port = s.port ∧
    (s.profileRead profile).state.banks = s.banks ∧ (s.profileRead profile).state.baselines = s.baselines ∧
    (s.profileRead profile).state.analyser = s.analyser ∧ (s.profileRead profile).state.conditions = s.conditions ∧
    (s.profileRead profile).state.reports = s.reports ∧ (s.profileRead profile).state.notices = s.notices ∧
    (s.profileRead profile).state.link = s.link ∧ (s.profileRead profile).state.outputs = s.outputs ∧
    (s.profileRead profile).state.freeCount = s.freeCount ∧ (s.profileRead profile).state.pending = s.pending := by
  unfold State.profileRead
  (repeat' split) <;> simp

@[simp] theorem State.conditionRead_frame (s : State) (span : Byte) :
    (s.conditionRead span).state.plan = s.plan ∧ (s.conditionRead span).state.window = s.window ∧
    (s.conditionRead span).state.engine = s.engine ∧ (s.conditionRead span).state.port = s.port ∧
    (s.conditionRead span).state.banks = s.banks ∧ (s.conditionRead span).state.baselines = s.baselines ∧
    (s.conditionRead span).state.analyser = s.analyser ∧ (s.conditionRead span).state.conditions = s.conditions ∧
    (s.conditionRead span).state.reports = s.reports ∧ (s.conditionRead span).state.notices = s.notices ∧
    (s.conditionRead span).state.link = s.link ∧ (s.conditionRead span).state.outputs = s.outputs ∧
    (s.conditionRead span).state.freeCount = s.freeCount ∧ (s.conditionRead span).state.pending = s.pending := by
  unfold State.conditionRead
  (repeat' split) <;> simp

@[simp] theorem State.conditionClear_frame (s : State) (span : Byte) :
    (s.conditionClear span).state.plan = s.plan ∧ (s.conditionClear span).state.window = s.window ∧
    (s.conditionClear span).state.port = s.port ∧ (s.conditionClear span).state.banks = s.banks ∧
    (s.conditionClear span).state.baselines = s.baselines ∧ (s.conditionClear span).state.analyser = s.analyser ∧
    (s.conditionClear span).state.reports = s.reports ∧ (s.conditionClear span).state.notices = s.notices ∧
    (s.conditionClear span).state.link = s.link ∧ (s.conditionClear span).state.outputs = s.outputs ∧
    (s.conditionClear span).state.freeCount = s.freeCount ∧ (s.conditionClear span).state.pending = s.pending := by
  unfold State.conditionClear
  (repeat' split) <;> simp

@[simp] theorem State.raiseCause_frame (s : State) (y0 : Option Cause) :
    (s.raiseCause y0).plan = s.plan ∧ (s.raiseCause y0).window = s.window ∧ (s.raiseCause y0).engine = s.engine ∧
    (s.raiseCause y0).port = s.port ∧ (s.raiseCause y0).banks = s.banks ∧ (s.raiseCause y0).baselines = s.baselines ∧
    (s.raiseCause y0).analyser = s.analyser ∧ (s.raiseCause y0).conditions = s.conditions ∧
    (s.raiseCause y0).reports = s.reports ∧ (s.raiseCause y0).link = s.link ∧ (s.raiseCause y0).outputs = s.outputs ∧
    (s.raiseCause y0).freeCount = s.freeCount ∧ (s.raiseCause y0).pending = s.pending := by
  unfold State.raiseCause
  (repeat' split) <;> simp

@[simp] theorem State.applyVerdict_frame (s : State) (sp : Span) (was : Condition) (v : Verdict) :
    (s.applyVerdict sp was v).plan = s.plan ∧ (s.applyVerdict sp was v).window = s.window ∧
    (s.applyVerdict sp was v).port = s.port ∧ (s.applyVerdict sp was v).banks = s.banks ∧
    (s.applyVerdict sp was v).baselines = s.baselines ∧ (s.applyVerdict sp was v).analyser = s.analyser ∧
    (s.applyVerdict sp was v).reports = s.reports ∧ (s.applyVerdict sp was v).link = s.link ∧
    (s.applyVerdict sp was v).outputs = s.outputs ∧ (s.applyVerdict sp was v).freeCount = s.freeCount ∧
    (s.applyVerdict sp was v).pending = s.pending := by
  unfold State.applyVerdict
  (repeat' split) <;> simp

@[simp] theorem State.judgeAnalysed_frame (s : State) (r : AnalysisResult) (l : FindingList) :
    (s.judgeAnalysed r l).state.plan = s.plan ∧ (s.judgeAnalysed r l).state.window = s.window ∧
    (s.judgeAnalysed r l).state.port = s.port ∧ (s.judgeAnalysed r l).state.banks = s.banks ∧
    (s.judgeAnalysed r l).state.baselines = s.baselines ∧ (s.judgeAnalysed r l).state.analyser = s.analyser ∧
    (s.judgeAnalysed r l).state.reports = s.reports ∧ (s.judgeAnalysed r l).state.link = s.link ∧
    (s.judgeAnalysed r l).state.outputs = s.outputs ∧ (s.judgeAnalysed r l).state.freeCount = s.freeCount ∧
    (s.judgeAnalysed r l).state.pending = s.pending := by
  simp [State.judgeAnalysed]

@[simp] theorem State.judgeEscalated_frame (s : State) (r : AnalysisResult) :
    (s.judgeEscalated r).state.plan = s.plan ∧ (s.judgeEscalated r).state.window = s.window ∧
    (s.judgeEscalated r).state.port = s.port ∧ (s.judgeEscalated r).state.banks = s.banks ∧
    (s.judgeEscalated r).state.baselines = s.baselines ∧ (s.judgeEscalated r).state.analyser = s.analyser ∧
    (s.judgeEscalated r).state.reports = s.reports ∧ (s.judgeEscalated r).state.link = s.link ∧
    (s.judgeEscalated r).state.outputs = s.outputs ∧ (s.judgeEscalated r).state.freeCount = s.freeCount ∧
    (s.judgeEscalated r).state.pending = s.pending := by
  unfold State.judgeEscalated
  (repeat' split) <;> simp

@[simp] theorem State.judgeCurrent_frame (s : State) (r : AnalysisResult) :
    (s.judgeCurrent r).state.plan = s.plan ∧ (s.judgeCurrent r).state.window = s.window ∧
    (s.judgeCurrent r).state.port = s.port ∧ (s.judgeCurrent r).state.banks = s.banks ∧
    (s.judgeCurrent r).state.baselines = s.baselines ∧ (s.judgeCurrent r).state.analyser = s.analyser ∧
    (s.judgeCurrent r).state.reports = s.reports ∧ (s.judgeCurrent r).state.link = s.link ∧
    (s.judgeCurrent r).state.outputs = s.outputs ∧ (s.judgeCurrent r).state.freeCount = s.freeCount ∧
    (s.judgeCurrent r).state.pending = s.pending := by
  unfold State.judgeCurrent
  (repeat' split) <;> simp

@[simp] theorem State.judgeResult_frame (s : State) (r : AnalysisResult) :
    (s.judgeResult r).state.plan = s.plan ∧ (s.judgeResult r).state.window = s.window ∧
    (s.judgeResult r).state.port = s.port ∧ (s.judgeResult r).state.banks = s.banks ∧
    (s.judgeResult r).state.baselines = s.baselines ∧ (s.judgeResult r).state.analyser = s.analyser ∧
    (s.judgeResult r).state.reports = s.reports ∧ (s.judgeResult r).state.link = s.link ∧
    (s.judgeResult r).state.outputs = s.outputs ∧ (s.judgeResult r).state.freeCount = s.freeCount ∧
    (s.judgeResult r).state.pending = s.pending := by
  unfold State.judgeResult
  dsimp only
  split <;> simp

@[simp] theorem State.takeResult_frame (s : State) (r : AnalysisResult) (retained : Bool) :
    (s.takeResult r retained).window = s.window ∧ (s.takeResult r retained).port = s.port ∧
    (s.takeResult r retained).banks = s.banks ∧ (s.takeResult r retained).baselines = s.baselines ∧
    (s.takeResult r retained).analyser = s.analyser ∧ (s.takeResult r retained).link = s.link ∧
    (s.takeResult r retained).outputs = s.outputs ∧ (s.takeResult r retained).freeCount = s.freeCount ∧
    (s.takeResult r retained).pending = s.pending := by
  simp [State.takeResult]

@[simp] theorem State.startAnalysis_frame (s : State) (rest : List BankName) (r : AnalysisRecord) :
    (s.startAnalysis rest r).plan = s.plan ∧ (s.startAnalysis rest r).window = s.window ∧
    (s.startAnalysis rest r).engine = s.engine ∧ (s.startAnalysis rest r).port = s.port ∧
    (s.startAnalysis rest r).baselines = s.baselines ∧ (s.startAnalysis rest r).conditions = s.conditions ∧
    (s.startAnalysis rest r).reports = s.reports ∧ (s.startAnalysis rest r).notices = s.notices ∧
    (s.startAnalysis rest r).link = s.link ∧ (s.startAnalysis rest r).outputs = s.outputs ∧
    (s.startAnalysis rest r).freeCount = s.freeCount ∧ (s.startAnalysis rest r).pending = s.pending := by
  simp [State.startAnalysis]

@[simp] theorem State.takeReady_frame (s : State) :
    s.takeReady.plan = s.plan ∧ s.takeReady.window = s.window ∧ s.takeReady.engine = s.engine ∧
    s.takeReady.port = s.port ∧ s.takeReady.baselines = s.baselines ∧ s.takeReady.conditions = s.conditions ∧
    s.takeReady.reports = s.reports ∧ s.takeReady.notices = s.notices ∧ s.takeReady.link = s.link ∧
    s.takeReady.outputs = s.outputs ∧ s.takeReady.freeCount = s.freeCount ∧ s.takeReady.pending = s.pending := by
  unfold State.takeReady
  (repeat' split) <;> simp

@[simp] theorem State.idleAnalyser_frame (s : State) :
    s.idleAnalyser.plan = s.plan ∧ s.idleAnalyser.window = s.window ∧ s.idleAnalyser.engine = s.engine ∧
    s.idleAnalyser.port = s.port ∧ s.idleAnalyser.banks = s.banks ∧ s.idleAnalyser.baselines = s.baselines ∧
    s.idleAnalyser.conditions = s.conditions ∧ s.idleAnalyser.reports = s.reports ∧
    s.idleAnalyser.notices = s.notices ∧ s.idleAnalyser.link = s.link ∧ s.idleAnalyser.outputs = s.outputs ∧
    s.idleAnalyser.freeCount = s.freeCount ∧ s.idleAnalyser.pending = s.pending := by
  simp [State.idleAnalyser]

@[simp] theorem State.completeAnalysis_frame (s : State) (r : AnalysisRecord) :
    (s.completeAnalysis r).window = s.window ∧ (s.completeAnalysis r).port = s.port ∧
    (s.completeAnalysis r).baselines = s.baselines ∧ (s.completeAnalysis r).link = s.link ∧
    (s.completeAnalysis r).outputs = s.outputs ∧ (s.completeAnalysis r).freeCount = s.freeCount ∧
    (s.completeAnalysis r).pending = s.pending := by
  simp [State.completeAnalysis]

@[simp] theorem State.completeReanalysis_frame (s : State) (r : AnalysisRecord) :
    (s.completeReanalysis r).plan = s.plan ∧ (s.completeReanalysis r).window = s.window ∧
    (s.completeReanalysis r).port = s.port ∧ (s.completeReanalysis r).baselines = s.baselines ∧
    (s.completeReanalysis r).conditions = s.conditions ∧ (s.completeReanalysis r).link = s.link ∧
    (s.completeReanalysis r).outputs = s.outputs ∧ (s.completeReanalysis r).freeCount = s.freeCount ∧
    (s.completeReanalysis r).pending = s.pending := by
  simp [State.completeReanalysis]

@[simp] theorem State.analysisCompletes_frame (s : State) :
    s.analysisCompletes.window = s.window ∧ s.analysisCompletes.port = s.port ∧
    s.analysisCompletes.baselines = s.baselines ∧ s.analysisCompletes.link = s.link ∧
    s.analysisCompletes.outputs = s.outputs ∧ s.analysisCompletes.freeCount = s.freeCount ∧
    s.analysisCompletes.pending = s.pending := by
  unfold State.analysisCompletes
  (repeat' split) <;> simp

@[simp] theorem State.reanalysisCompletes_frame (s : State) :
    s.reanalysisCompletes.plan = s.plan ∧ s.reanalysisCompletes.window = s.window ∧
    s.reanalysisCompletes.port = s.port ∧ s.reanalysisCompletes.baselines = s.baselines ∧
    s.reanalysisCompletes.conditions = s.conditions ∧ s.reanalysisCompletes.link = s.link ∧
    s.reanalysisCompletes.outputs = s.outputs ∧ s.reanalysisCompletes.freeCount = s.freeCount ∧
    s.reanalysisCompletes.pending = s.pending := by
  unfold State.reanalysisCompletes
  (repeat' split) <;> simp

@[simp] theorem State.drain_frame (s : State) (n : Byte) :
    (s.drain n).state.plan = s.plan ∧ (s.drain n).state.window = s.window ∧ (s.drain n).state.port = s.port ∧
    (s.drain n).state.banks = s.banks ∧ (s.drain n).state.baselines = s.baselines ∧
    (s.drain n).state.analyser = s.analyser ∧ (s.drain n).state.conditions = s.conditions ∧
    (s.drain n).state.notices = s.notices ∧ (s.drain n).state.link = s.link ∧ (s.drain n).state.outputs = s.outputs ∧
    (s.drain n).state.freeCount = s.freeCount ∧ (s.drain n).state.pending = s.pending := by
  unfold State.drain
  (repeat' split) <;> simp

@[simp] theorem State.noticeRead_frame (s : State) :
    s.noticeRead.state.plan = s.plan ∧ s.noticeRead.state.window = s.window ∧ s.noticeRead.state.engine = s.engine ∧
    s.noticeRead.state.port = s.port ∧ s.noticeRead.state.banks = s.banks ∧
    s.noticeRead.state.baselines = s.baselines ∧ s.noticeRead.state.analyser = s.analyser ∧
    s.noticeRead.state.conditions = s.conditions ∧ s.noticeRead.state.reports = s.reports ∧
    s.noticeRead.state.notices = s.notices ∧ s.noticeRead.state.link = s.link ∧
    s.noticeRead.state.outputs = s.outputs ∧ s.noticeRead.state.freeCount = s.freeCount ∧
    s.noticeRead.state.pending = s.pending := by
  simp [State.noticeRead]

@[simp] theorem State.noticeAck_frame (s : State) (kinds : List Byte) :
    (s.noticeAck kinds).state.plan = s.plan ∧ (s.noticeAck kinds).state.window = s.window ∧
    (s.noticeAck kinds).state.engine = s.engine ∧ (s.noticeAck kinds).state.port = s.port ∧
    (s.noticeAck kinds).state.banks = s.banks ∧ (s.noticeAck kinds).state.baselines = s.baselines ∧
    (s.noticeAck kinds).state.analyser = s.analyser ∧ (s.noticeAck kinds).state.conditions = s.conditions ∧
    (s.noticeAck kinds).state.reports = s.reports ∧ (s.noticeAck kinds).state.link = s.link ∧
    (s.noticeAck kinds).state.outputs = s.outputs ∧ (s.noticeAck kinds).state.freeCount = s.freeCount ∧
    (s.noticeAck kinds).state.pending = s.pending := by
  unfold State.noticeAck
  (repeat' split) <;> simp

@[simp] theorem State.noticeMask_frame (s : State) (pairs : List (Byte × Byte)) :
    (s.noticeMask pairs).state.plan = s.plan ∧ (s.noticeMask pairs).state.window = s.window ∧
    (s.noticeMask pairs).state.engine = s.engine ∧ (s.noticeMask pairs).state.port = s.port ∧
    (s.noticeMask pairs).state.banks = s.banks ∧ (s.noticeMask pairs).state.baselines = s.baselines ∧
    (s.noticeMask pairs).state.analyser = s.analyser ∧ (s.noticeMask pairs).state.conditions = s.conditions ∧
    (s.noticeMask pairs).state.reports = s.reports ∧ (s.noticeMask pairs).state.link = s.link ∧
    (s.noticeMask pairs).state.outputs = s.outputs ∧ (s.noticeMask pairs).state.freeCount = s.freeCount ∧
    (s.noticeMask pairs).state.pending = s.pending := by
  unfold State.noticeMask
  (repeat' split) <;> simp

@[simp] theorem State.storeSettings_frame (s : State) (x : Settings) :
    (s.storeSettings x).plan = s.plan ∧ (s.storeSettings x).baselines = s.baselines ∧
    (s.storeSettings x).analyser = s.analyser ∧ (s.storeSettings x).conditions = s.conditions ∧
    (s.storeSettings x).notices = s.notices ∧ (s.storeSettings x).link = s.link ∧
    (s.storeSettings x).outputs = s.outputs ∧ (s.storeSettings x).freeCount = s.freeCount ∧
    (s.storeSettings x).pending = s.pending := by
  simp [State.storeSettings]

@[simp] theorem State.writeSettings_frame (s : State) (x : Settings) :
    (s.writeSettings x).plan = s.plan ∧ (s.writeSettings x).baselines = s.baselines ∧
    (s.writeSettings x).analyser = s.analyser ∧ (s.writeSettings x).conditions = s.conditions ∧
    (s.writeSettings x).link = s.link ∧ (s.writeSettings x).outputs = s.outputs ∧
    (s.writeSettings x).freeCount = s.freeCount ∧ (s.writeSettings x).pending = s.pending := by
  unfold State.writeSettings
  (repeat' split) <;> simp

@[simp] theorem State.settingsWrite_frame (s : State) (pairs : List (Byte × Half)) :
    (s.settingsWrite pairs).state.plan = s.plan ∧ (s.settingsWrite pairs).state.baselines = s.baselines ∧
    (s.settingsWrite pairs).state.analyser = s.analyser ∧ (s.settingsWrite pairs).state.conditions = s.conditions ∧
    (s.settingsWrite pairs).state.link = s.link ∧ (s.settingsWrite pairs).state.outputs = s.outputs ∧
    (s.settingsWrite pairs).state.freeCount = s.freeCount ∧ (s.settingsWrite pairs).state.pending = s.pending := by
  unfold State.settingsWrite
  (repeat' split) <;> simp

@[simp] theorem State.settingsRead_frame (s : State) :
    s.settingsRead.state.plan = s.plan ∧ s.settingsRead.state.window = s.window ∧
    s.settingsRead.state.engine = s.engine ∧ s.settingsRead.state.port = s.port ∧
    s.settingsRead.state.banks = s.banks ∧ s.settingsRead.state.baselines = s.baselines ∧
    s.settingsRead.state.analyser = s.analyser ∧ s.settingsRead.state.conditions = s.conditions ∧
    s.settingsRead.state.reports = s.reports ∧ s.settingsRead.state.notices = s.notices ∧
    s.settingsRead.state.link = s.link ∧ s.settingsRead.state.outputs = s.outputs ∧
    s.settingsRead.state.freeCount = s.freeCount ∧ s.settingsRead.state.pending = s.pending := by
  simp [State.settingsRead]

@[simp] theorem State.statusRead_frame (s : State) :
    s.statusRead.state.plan = s.plan ∧ s.statusRead.state.window = s.window ∧ s.statusRead.state.engine = s.engine ∧
    s.statusRead.state.port = s.port ∧ s.statusRead.state.banks = s.banks ∧
    s.statusRead.state.baselines = s.baselines ∧ s.statusRead.state.analyser = s.analyser ∧
    s.statusRead.state.conditions = s.conditions ∧ s.statusRead.state.reports = s.reports ∧
    s.statusRead.state.notices = s.notices ∧ s.statusRead.state.link = s.link ∧
    s.statusRead.state.outputs = s.outputs ∧ s.statusRead.state.freeCount = s.freeCount ∧
    s.statusRead.state.pending = s.pending := by
  simp [State.statusRead]

@[simp] theorem State.resetNotices_frame (s : State) (mask : BitVec 13) :
    (s.resetNotices mask).plan = s.plan ∧ (s.resetNotices mask).window = s.window ∧
    (s.resetNotices mask).engine = s.engine ∧ (s.resetNotices mask).port = s.port ∧
    (s.resetNotices mask).banks = s.banks ∧ (s.resetNotices mask).baselines = s.baselines ∧
    (s.resetNotices mask).analyser = s.analyser ∧ (s.resetNotices mask).conditions = s.conditions ∧
    (s.resetNotices mask).reports = s.reports ∧ (s.resetNotices mask).link = s.link ∧
    (s.resetNotices mask).outputs = s.outputs ∧ (s.resetNotices mask).freeCount = s.freeCount ∧
    (s.resetNotices mask).pending = s.pending := by
  simp [State.resetNotices]

@[simp] theorem State.hardReset_frame (s : State) (cause : ResetCause) :
    (s.hardReset cause).outputs = s.outputs ∧ (s.hardReset cause).freeCount = s.freeCount ∧
    (s.hardReset cause).pending = s.pending := by
  simp [State.hardReset]

@[simp] theorem State.fullReset_frame (s : State) :
    s.fullReset.outputs = s.outputs ∧ s.fullReset.freeCount = s.freeCount ∧ s.fullReset.pending = s.pending := by
  simp [State.fullReset]

@[simp] theorem State.restartBlocks_frame (s : State) :
    s.restartBlocks.window = s.window ∧ s.restartBlocks.baselines = s.baselines ∧
    s.restartBlocks.outputs = s.outputs ∧ s.restartBlocks.freeCount = s.freeCount ∧
    s.restartBlocks.pending = s.pending := by
  simp [State.restartBlocks]

@[simp] theorem State.restart_frame (s : State) :
    s.restart.baselines = s.baselines ∧ s.restart.outputs = s.outputs ∧ s.restart.freeCount = s.freeCount ∧
    s.restart.pending = s.pending := by
  unfold State.restart
  (repeat' split) <;> simp

@[simp] theorem State.resetEffect_frame (s : State) (y0 : ResetCommand) :
    (s.resetEffect y0).outputs = s.outputs ∧ (s.resetEffect y0).freeCount = s.freeCount ∧
    (s.resetEffect y0).pending = s.pending := by
  unfold State.resetEffect
  (repeat' split) <;> simp

@[simp] theorem State.perform_frame (s : State) (tag : Byte) (c : LinkCommand) :
    ((s.perform tag c).state).link = s.link ∧ ((s.perform tag c).state).outputs = s.outputs ∧
    ((s.perform tag c).state).pending = s.pending := by
  cases c <;> simp [State.perform]

@[simp] theorem State.answer_frame (s : State) (next : Dispatcher) (r : Response) :
    (s.answer next r).plan = s.plan ∧ (s.answer next r).window = s.window ∧ (s.answer next r).engine = s.engine ∧
    (s.answer next r).port = s.port ∧ (s.answer next r).banks = s.banks ∧ (s.answer next r).baselines = s.baselines ∧
    (s.answer next r).analyser = s.analyser ∧ (s.answer next r).conditions = s.conditions ∧
    (s.answer next r).reports = s.reports ∧ (s.answer next r).notices = s.notices ∧
    (s.answer next r).outputs = s.outputs ∧ (s.answer next r).freeCount = s.freeCount ∧
    (s.answer next r).pending = s.pending := by
  simp [State.answer]

@[simp] theorem State.runCommand_frame (s : State) (tag : Byte) (c : LinkCommand) :
    (s.runCommand tag c).outputs = s.outputs ∧ (s.runCommand tag c).pending = s.pending := by
  simp [State.runCommand]

@[simp] theorem State.runFrame_frame (s : State) (f : CommandFrame) :
    (s.runFrame f).outputs = s.outputs ∧ (s.runFrame f).pending = s.pending := by
  unfold State.runFrame
  (repeat' split) <;> simp

@[simp] theorem State.dispatch_frame (s : State) :
    s.dispatch.outputs = s.outputs ∧ s.dispatch.pending = s.pending := by
  unfold State.dispatch
  (repeat' split) <;> simp

@[simp] theorem State.setTransmitter_frame (s : State) (f : Option OutFrame) :
    (s.setTransmitter f).plan = s.plan ∧ (s.setTransmitter f).window = s.window ∧
    (s.setTransmitter f).engine = s.engine ∧ (s.setTransmitter f).port = s.port ∧
    (s.setTransmitter f).banks = s.banks ∧ (s.setTransmitter f).baselines = s.baselines ∧
    (s.setTransmitter f).analyser = s.analyser ∧ (s.setTransmitter f).conditions = s.conditions ∧
    (s.setTransmitter f).reports = s.reports ∧ (s.setTransmitter f).notices = s.notices ∧
    (s.setTransmitter f).outputs = s.outputs ∧ (s.setTransmitter f).freeCount = s.freeCount ∧
    (s.setTransmitter f).pending = s.pending := by
  simp [State.setTransmitter]

@[simp] theorem State.grantResponse_frame (s : State) (r : Response) :
    (s.grantResponse r).plan = s.plan ∧ (s.grantResponse r).window = s.window ∧
    (s.grantResponse r).engine = s.engine ∧ (s.grantResponse r).port = s.port ∧ (s.grantResponse r).banks = s.banks ∧
    (s.grantResponse r).baselines = s.baselines ∧ (s.grantResponse r).analyser = s.analyser ∧
    (s.grantResponse r).conditions = s.conditions ∧ (s.grantResponse r).reports = s.reports ∧
    (s.grantResponse r).notices = s.notices ∧ (s.grantResponse r).outputs = s.outputs ∧
    (s.grantResponse r).freeCount = s.freeCount ∧ (s.grantResponse r).pending = s.pending := by
  simp [State.grantResponse]

@[simp] theorem State.grantExport_frame (s : State) (f : ExportFrame) :
    (s.grantExport f).plan = s.plan ∧ (s.grantExport f).window = s.window ∧ (s.grantExport f).engine = s.engine ∧
    (s.grantExport f).port = s.port ∧ (s.grantExport f).baselines = s.baselines ∧
    (s.grantExport f).analyser = s.analyser ∧ (s.grantExport f).conditions = s.conditions ∧
    (s.grantExport f).reports = s.reports ∧ (s.grantExport f).notices = s.notices ∧
    (s.grantExport f).outputs = s.outputs ∧ (s.grantExport f).freeCount = s.freeCount ∧
    (s.grantExport f).pending = s.pending := by
  simp [State.grantExport]

@[simp] theorem State.grantReport_frame (s : State) :
    s.grantReport.plan = s.plan ∧ s.grantReport.window = s.window ∧ s.grantReport.port = s.port ∧
    s.grantReport.banks = s.banks ∧ s.grantReport.baselines = s.baselines ∧ s.grantReport.analyser = s.analyser ∧
    s.grantReport.conditions = s.conditions ∧ s.grantReport.notices = s.notices ∧ s.grantReport.outputs = s.outputs ∧
    s.grantReport.freeCount = s.freeCount ∧ s.grantReport.pending = s.pending := by
  simp [State.grantReport]

@[simp] theorem State.grant_frame (s : State) :
    s.grant.plan = s.plan ∧ s.grant.window = s.window ∧ s.grant.port = s.port ∧ s.grant.baselines = s.baselines ∧
    s.grant.analyser = s.analyser ∧ s.grant.conditions = s.conditions ∧ s.grant.notices = s.notices ∧
    s.grant.outputs = s.outputs ∧ s.grant.freeCount = s.freeCount ∧ s.grant.pending = s.pending := by
  unfold State.grant
  (repeat' split) <;> simp

@[simp] theorem State.dispatchBehind_frame (s : State) : s.dispatchBehind.pending = s.pending := by
  unfold State.dispatchBehind
  (repeat' split) <;> simp

@[simp] theorem State.pump_frame (s : State) : s.pump.pending = s.pending := by
  simp [State.pump]

@[simp] theorem State.enqueue_frame (s : State) (f : CommandFrame) :
    (s.enqueue f).plan = s.plan ∧ (s.enqueue f).window = s.window ∧ (s.enqueue f).engine = s.engine ∧
    (s.enqueue f).port = s.port ∧ (s.enqueue f).banks = s.banks ∧ (s.enqueue f).baselines = s.baselines ∧
    (s.enqueue f).analyser = s.analyser ∧ (s.enqueue f).conditions = s.conditions ∧
    (s.enqueue f).reports = s.reports ∧ (s.enqueue f).notices = s.notices ∧ (s.enqueue f).outputs = s.outputs ∧
    (s.enqueue f).freeCount = s.freeCount ∧ (s.enqueue f).pending = s.pending := by
  unfold State.enqueue
  (repeat' split) <;> simp

@[simp] theorem State.receiveFrame_frame (s : State) (f : CommandFrame) :
    (s.receiveFrame f).outputs = s.outputs ∧ (s.receiveFrame f).pending = s.pending := by
  unfold State.receiveFrame
  (repeat' split) <;> simp

@[simp] theorem State.receive_frame (s : State) (tag : Byte) (c : LinkCommand) :
    (s.receive tag c).outputs = s.outputs ∧ (s.receive tag c).pending = s.pending := by
  unfold State.receive
  (repeat' split) <;> simp

@[simp] theorem State.setFramer_frame (s : State) (x : Framer) :
    (s.setFramer x).plan = s.plan ∧ (s.setFramer x).window = s.window ∧ (s.setFramer x).engine = s.engine ∧
    (s.setFramer x).port = s.port ∧ (s.setFramer x).banks = s.banks ∧ (s.setFramer x).baselines = s.baselines ∧
    (s.setFramer x).analyser = s.analyser ∧ (s.setFramer x).conditions = s.conditions ∧
    (s.setFramer x).reports = s.reports ∧ (s.setFramer x).notices = s.notices ∧ (s.setFramer x).outputs = s.outputs ∧
    (s.setFramer x).freeCount = s.freeCount ∧ (s.setFramer x).pending = s.pending := by
  simp [State.setFramer]

@[simp] theorem State.headerDone_frame (s : State) (kind tag : Byte) (length : Half) :
    (s.headerDone kind tag length).plan = s.plan ∧ (s.headerDone kind tag length).window = s.window ∧
    (s.headerDone kind tag length).engine = s.engine ∧ (s.headerDone kind tag length).port = s.port ∧
    (s.headerDone kind tag length).banks = s.banks ∧ (s.headerDone kind tag length).baselines = s.baselines ∧
    (s.headerDone kind tag length).analyser = s.analyser ∧ (s.headerDone kind tag length).conditions = s.conditions ∧
    (s.headerDone kind tag length).reports = s.reports ∧ (s.headerDone kind tag length).notices = s.notices ∧
    (s.headerDone kind tag length).outputs = s.outputs ∧ (s.headerDone kind tag length).freeCount = s.freeCount ∧
    (s.headerDone kind tag length).pending = s.pending := by
  unfold State.headerDone
  (repeat' split) <;> simp

@[simp] theorem State.payloadByte_frame (s : State) (kind tag : Byte) (length : Half) (bytes : List Byte) :
    (s.payloadByte kind tag length bytes).plan = s.plan ∧ (s.payloadByte kind tag length bytes).window = s.window ∧
    (s.payloadByte kind tag length bytes).engine = s.engine ∧ (s.payloadByte kind tag length bytes).port = s.port ∧
    (s.payloadByte kind tag length bytes).banks = s.banks ∧
    (s.payloadByte kind tag length bytes).baselines = s.baselines ∧
    (s.payloadByte kind tag length bytes).analyser = s.analyser ∧
    (s.payloadByte kind tag length bytes).conditions = s.conditions ∧
    (s.payloadByte kind tag length bytes).reports = s.reports ∧
    (s.payloadByte kind tag length bytes).notices = s.notices ∧
    (s.payloadByte kind tag length bytes).outputs = s.outputs ∧
    (s.payloadByte kind tag length bytes).freeCount = s.freeCount ∧
    (s.payloadByte kind tag length bytes).pending = s.pending := by
  unfold State.payloadByte
  (repeat' split) <;> simp

@[simp] theorem State.checkDone_frame (s : State) (kind tag : Byte) (length : Half) (bytes : List Byte) (crc : Half) :
    (s.checkDone kind tag length bytes crc).outputs = s.outputs ∧
    (s.checkDone kind tag length bytes crc).pending = s.pending := by
  unfold State.checkDone
  (repeat' split) <;> simp

@[simp] theorem State.takeByte_frame (s : State) (b : Byte) :
    (s.takeByte b).outputs = s.outputs ∧ (s.takeByte b).pending = s.pending := by
  unfold State.takeByte
  (repeat' split) <;> simp

@[simp] theorem State.takeBytes_frame (s : State) (l : List Byte) :
    (s.takeBytes l).outputs = s.outputs ∧ (s.takeBytes l).pending = s.pending := by
  induction l generalizing s with
  | nil => simp [State.takeBytes]
  | cons r rest ih => simp [State.takeBytes, ih]

@[simp] theorem State.transmitted_frame (s : State) (f : OutFrame) :
    (s.transmitted f).outputs = s.outputs ∧ (s.transmitted f).freeCount = s.freeCount ∧
    (s.transmitted f).pending = s.pending := by
  unfold State.transmitted
  (repeat' split) <;> simp

@[simp] theorem State.frameSent_frame (s : State) : s.frameSent.pending = s.pending := by
  unfold State.frameSent
  (repeat' split) <;> simp

@[simp] theorem State.idleStep_frame (s : State) :
    s.idleStep.baselines = s.baselines ∧ s.idleStep.analyser = s.analyser ∧ s.idleStep.conditions = s.conditions ∧
    s.idleStep.outputs = s.outputs ∧ s.idleStep.pending = s.pending := by
  simp [State.idleStep]

end Sys2Proof.Machine
end

