-- ==== Sys2Proof/Laws/Ops.lean ====
section
/-! SUPPORT. What the shared operations do, once each: tables, banks, bin sums, notices, the choice, records and the
re-check queue. -/

namespace Sys2Proof.Machine

/-! ### Tables -/

@[simp] theorem tableGet_tableSet_same {α : Type} {n : Nat} (t : Vector α n) (i : Fin n) (x : α) :
    tableGet (tableSet t i x) i = x := by
  simp [tableGet, tableSet]

theorem tableGet_tableSet_ne {α : Type} {n : Nat} (t : Vector α n) {i j : Fin n} (h : j ≠ i) (x : α) :
    tableGet (tableSet t i x) j = tableGet t j := by
  have : i.val ≠ j.val := fun e => h (Fin.ext e.symm)
  simp [tableGet, tableSet, this]

@[simp] theorem tableGet_replicate {α : Type} {n : Nat} (x : α) (i : Fin n) :
    tableGet (Vector.replicate n x) i = x := by
  simp [tableGet]

@[simp] theorem State.entry_setEntry (s : State) (sp : Span) (e : PlanEntry) : (s.setEntry sp e).entry sp = e := by
  simp [State.entry, State.setEntry]

theorem State.entry_setEntry_ne (s : State) {sp i : Span} (h : i ≠ sp) (e : PlanEntry) :
    (s.setEntry sp e).entry i = s.entry i := by
  simp [State.entry, State.setEntry, tableGet_tableSet_ne _ h]

@[simp] theorem State.group_setGroup (s : State) (g : GroupNo) (x : Group) : (s.setGroup g x).group g = x := by
  simp [State.group, State.setGroup]

theorem State.group_setGroup_ne (s : State) {g i : GroupNo} (h : i ≠ g) (x : Group) :
    (s.setGroup g x).group i = s.group i := by
  simp [State.group, State.setGroup, tableGet_tableSet_ne _ h]

@[simp] theorem State.slot_setSlot (s : State) (sp : Span) (x : BaselineSlot) (n : Nat) :
    (s.setSlot sp x n).slot sp = x := by
  simp [State.slot, State.setSlot]

theorem State.slot_setSlot_ne (s : State) {sp i : Span} (h : i ≠ sp) (x : BaselineSlot) (n : Nat) :
    (s.setSlot sp x n).slot i = s.slot i := by
  simp [State.slot, State.setSlot, tableGet_tableSet_ne _ h]

@[simp] theorem State.poolFree_setSlot (s : State) (sp : Span) (x : BaselineSlot) (n : Nat) :
    (s.setSlot sp x n).baselines.poolFree = n := by
  simp [State.setSlot]

@[simp] theorem State.profile_setProfile (s : State) (p : ProfileNo) (x : Profile) :
    (s.setProfile p x).profile p = x := by
  simp [State.profile, State.setProfile]

theorem State.profile_setProfile_ne (s : State) {p i : ProfileNo} (h : i ≠ p) (x : Profile) :
    (s.setProfile p x).profile i = s.profile i := by
  simp [State.profile, State.setProfile, tableGet_tableSet_ne _ h]

@[simp] theorem State.condition_setCondition (s : State) (sp : Span) (x : ConditionEntry) :
    (s.setCondition sp x).condition sp = x := by
  simp [State.condition, State.setCondition]

theorem State.condition_setCondition_ne (s : State) {sp i : Span} (h : i ≠ sp) (x : ConditionEntry) :
    (s.setCondition sp x).condition i = s.condition i := by
  simp [State.condition, State.setCondition, tableGet_tableSet_ne _ h]

/-! ### Banks -/

@[simp] theorem State.bank_setBank (s : State) (n : BankName) (x : Bank) : (s.setBank n x).bank n = x := by
  cases n <;> rfl

theorem State.bank_setBank_ne (s : State) {n m : BankName} (h : m ≠ n) (x : Bank) :
    (s.setBank n x).bank m = s.bank m := by
  cases n <;> cases m <;> first
    | rfl
    | exact absurd rfl h

@[simp] theorem State.retainSlot_setBank (s : State) (n : BankName) (x : Bank) :
    (s.setBank n x).banks.retainSlot = s.banks.retainSlot := by
  cases n <;> rfl

@[simp] theorem State.ready_setBank (s : State) (n : BankName) (x : Bank) :
    (s.setBank n x).banks.ready = s.banks.ready := by
  cases n <;> rfl

@[simp] theorem State.holdLimit_setBank (s : State) (n : BankName) (x : Bank) :
    (s.setBank n x).banks.holdLimit = s.banks.holdLimit := by
  cases n <;> rfl

/-- Banks equal, every read of a bank is equal. -/
theorem State.bank_congr {s t : State} (h : t.banks = s.banks) (n : BankName) : t.bank n = s.bank n := by
  cases n <;> simp [State.bank, h]

/-! ### Bin sums -/

/-- The canonical form with every bin above `i`. -/
def Sums.wfFrom (i : Nat) : Sums → Bool
  | [] => true
  | (j, v) :: rest => decide (i ≤ j) && v != unlistedSum && Sums.wfFrom (j + 1) rest

theorem Sums.wf_eq_wfFrom : ∀ m : Sums, m.wf = m.wfFrom 0
  | [] => rfl
  | [(_, v)] => by simp [Sums.wf, Sums.wfFrom]
  | (i, v) :: (j, w) :: rest => by
    have ih := Sums.wf_eq_wfFrom ((j, w) :: rest)
    simp only [Sums.wf, ih, Sums.wfFrom, Nat.zero_le, decide_true, Bool.true_and]
    by_cases h : i < j <;> simp [h]

theorem Sums.wfFrom_mono {i j : Nat} (h : i ≤ j) : ∀ {m : Sums}, m.wfFrom j = true → m.wfFrom i = true
  | [], _ => rfl
  | (k, v) :: rest, hm => by
    simp only [Sums.wfFrom, Bool.and_eq_true, decide_eq_true_eq] at hm ⊢
    exact ⟨⟨le_trans h hm.1.1, hm.1.2⟩, hm.2⟩

theorem Sums.listed_wfFrom {i k : Nat} {v : Word} {rest : Sums} (hk : k ≤ i) (h : rest.wfFrom (i + 1) = true) :
    (Sums.listed i v rest).wfFrom k = true := by
  unfold Sums.listed
  split
  · exact Sums.wfFrom_mono (by omega) h
  · rename_i hv
    simp [Sums.wfFrom, hk, h, hv]

theorem Sums.write_wfFrom : ∀ {m : Sums} {k i : Nat} {v : Word}, k ≤ i → m.wfFrom k = true →
    (m.write i v).wfFrom k = true
  | [], k, i, v, hk, _ => Sums.listed_wfFrom hk rfl
  | (j, w) :: rest, k, i, v, hk, hm => by
    have hm' := hm
    simp only [Sums.wfFrom, Bool.and_eq_true, decide_eq_true_eq] at hm'
    unfold Sums.write
    split
    · rename_i hij
      refine Sums.listed_wfFrom hk ?_
      simp only [Sums.wfFrom, Bool.and_eq_true, decide_eq_true_eq]
      exact ⟨⟨hij, hm'.1.2⟩, hm'.2⟩
    · split
      · rename_i _ hij
        subst hij
        exact Sums.listed_wfFrom hk hm'.2
      · rename_i h1 h2
        simp only [Sums.wfFrom, Bool.and_eq_true, decide_eq_true_eq]
        exact ⟨hm'.1, Sums.write_wfFrom (by omega) hm'.2⟩

/-- A write keeps the canonical form. -/
theorem Sums.write_wf {m : Sums} (h : m.wf = true) (i : Nat) (v : Word) : (m.write i v).wf = true := by
  rw [Sums.wf_eq_wfFrom] at h ⊢
  exact Sums.write_wfFrom (Nat.zero_le i) h

/-- Adding a level keeps the canonical form. -/
theorem Sums.add_wf {m : Sums} (h : m.wf = true) (i : Nat) (level : Half) : (m.add i level).wf = true :=
  Sums.write_wf h i _

theorem Sums.read_below : ∀ {m : Sums} {i k : Nat}, m.wfFrom k = true → i < k → m.read i = unlistedSum
  | [], _, _, _, _ => rfl
  | (j, w) :: rest, i, k, hm, hik => by
    simp only [Sums.wfFrom, Bool.and_eq_true, decide_eq_true_eq] at hm
    have hne : ¬ i = j := by omega
    simp only [Sums.read, hne, if_false]
    exact Sums.read_below hm.2 (by omega)

theorem Sums.read_listed {i k : Nat} {v : Word} {rest : Sums} (h : rest.wfFrom (i + 1) = true) :
    (Sums.listed i v rest).read k = if k = i then v else rest.read k := by
  unfold Sums.listed
  split
  · rename_i hv
    split
    · rename_i hk
      rw [hk, Sums.read_below h (by omega), hv]
    · rfl
  · simp [Sums.read]

theorem Sums.read_write_from : ∀ {m : Sums} {k i j : Nat} {v : Word}, m.wfFrom k = true →
    (m.write i v).read j = if j = i then v else m.read j
  | [], _, i, j, v, _ => Sums.read_listed rfl
  | (l, w) :: rest, k, i, j, v, hm => by
    have hm' := hm
    simp only [Sums.wfFrom, Bool.and_eq_true, decide_eq_true_eq] at hm'
    unfold Sums.write
    split
    · rename_i hil
      refine Sums.read_listed ?_
      simp only [Sums.wfFrom, Bool.and_eq_true, decide_eq_true_eq]
      exact ⟨⟨hil, hm'.1.2⟩, hm'.2⟩
    · split
      · rename_i _ hil
        subst hil
        rw [Sums.read_listed hm'.2]
        by_cases hj : j = i <;> simp [hj, Sums.read]
      · rename_i h1 h2
        simp only [Sums.read, Sums.read_write_from hm'.2]
        by_cases hl : j = l
        · have : j ≠ i := by omega
          simp [hl, show l ≠ i by omega]
        · simp [hl]

/-- A bin written reads as written, every other bin as before. -/
theorem Sums.read_write {m : Sums} (h : m.wf = true) (i j : Nat) (v : Word) :
    (m.write i v).read j = if j = i then v else m.read j :=
  Sums.read_write_from (k := 0) (by rwa [Sums.wf_eq_wfFrom] at h)

/-! ### Notices -/

@[simp] theorem State.raise_pending (s : State) (k : NoticeKind) :
    (s.raise k).notices.pending = s.notices.pending ||| kindBit k.number := rfl

@[simp] theorem State.raise_mask (s : State) (k : NoticeKind) : (s.raise k).notices.mask = s.notices.mask := rfl

/-! ### The choice -/

/-- The choice writes the engine's state and nothing else; holding a sweep it writes nothing (R38). -/
theorem State.choose_eq (s : State) :
    s.choose = if s.sweepInFlight then s else s.setEngineState (if s.sourceExists then .waiting else .idle) := by
  unfold State.choose State.sweepInFlight
  cases s.engine.state <;> rfl

/-- The choice writes no other field of the engine. -/
theorem State.choose_engine (s : State) : s.choose.engine = { s.engine with state := s.choose.engine.state } := by
  rw [State.choose_eq]
  split <;> rfl

@[simp] theorem State.choose_bank (s : State) : s.choose.engine.bank = s.engine.bank := by
  rw [State.choose_engine]

@[simp] theorem State.choose_selector (s : State) : s.choose.engine.selector = s.engine.selector := by
  rw [State.choose_engine]

@[simp] theorem State.choose_onDemand (s : State) : s.choose.engine.onDemand = s.engine.onDemand := by
  rw [State.choose_engine]

/-- The choice does not end or begin a sweep. -/
@[simp] theorem State.choose_sweepInFlight (s : State) : s.choose.sweepInFlight = s.sweepInFlight := by
  rw [State.choose_eq]
  split
  · rfl
  · rename_i h
    simp only [Bool.not_eq_true] at h
    rw [h]
    split <;> rfl

/-! ### Records -/

/-- Back-pressure touches no record and no reservation. -/
@[simp] theorem State.checkPause_records (s : State) :
    s.checkPause.reports.records = s.reports.records ∧ s.checkPause.reports.reserved = s.reports.reserved := by
  unfold State.checkPause
  split <;> simp

@[simp] theorem State.checkResume_records (s : State) :
    s.checkResume.reports.records = s.reports.records ∧ s.checkResume.reports.reserved = s.reports.reserved := by
  unfold State.checkResume
  split <;> simp

/-- A record put stands at the tail (R151). -/
@[simp] theorem State.pushRecord_records (s : State) (r : Record) :
    (s.pushRecord r).reports.records = s.reports.records ++ [r] ∧
      (s.pushRecord r).reports.reserved = s.reports.reserved := by
  simp [State.pushRecord]

/-- A record put into a reserved slot (R153). -/
@[simp] theorem State.putReserved_records (s : State) (r : Record) :
    (s.putReserved r).reports.records = s.reports.records ++ [r] ∧
      (s.putReserved r).reports.reserved = s.reports.reserved - 1 := by
  simp [State.putReserved]

/-- The records of one work stand at the tail in order, each in a reserved slot (R153). -/
@[simp] theorem State.putAll_records (s : State) (l : List Record) :
    (s.putAll l).reports.records = s.reports.records ++ l ∧
      (s.putAll l).reports.reserved = s.reports.reserved - l.length := by
  induction l generalizing s with
  | nil => simp [State.putAll]
  | cons r rest ih =>
    simp only [State.putAll, ih, State.putReserved_records, List.append_assoc, List.singleton_append, List.length_cons,
      true_and]
    omega

@[simp] theorem State.releaseSlots_records (s : State) (n : Nat) :
    (s.releaseSlots n).reports.records = s.reports.records ∧
      (s.releaseSlots n).reports.reserved = s.reports.reserved - n := by
  simp [State.releaseSlots]

/-- The records of one work put, and its reservation ended (R153). -/
theorem State.putWork_records (s : State) (l : List Record) (h : l.length ≤ Config.reservation) :
    (s.putWork l).reports.records = s.reports.records ++ l ∧
      (s.putWork l).reports.reserved = s.reports.reserved - Config.reservation := by
  simp only [State.putWork, State.releaseSlots_records, State.putAll_records, true_and]
  omega

/-- An edge record stands at the tail when a slot is free, and is counted as omitted otherwise; no reserved slot goes (R154). -/
theorem State.putEdge_cases (s : State) (r : Record) :
    (s.reports.hasFree = true ∧ s.putEdge r = s.pushRecord r) ∨
      (s.reports.hasFree = false ∧
        s.putEdge r = s.withReports { s.reports with omitted := bump Config.countLimit s.reports.omitted }) := by
  unfold State.putEdge
  cases s.reports.hasFree <;> simp

@[simp] theorem State.putEdge_reserved (s : State) (r : Record) :
    (s.putEdge r).reports.reserved = s.reports.reserved := by
  rcases s.putEdge_cases r with ⟨_, h⟩ | ⟨_, h⟩ <;> simp [h]

/-! ### Re-check queue -/

/-- What a request at the tail leaves as the queue (R147). -/
theorem State.requestTail_recheck (s : State) (sp : Span) (reason : RecheckReason) :
    (s.requestTail sp reason).conditions.recheck =
      match s.recheckAnswer sp with
      | .refused | .dropped => s.conditions.recheck
      | .updated => updateRecheck sp reason s.conditions.recheck
      | .joined => s.conditions.recheck ++ [{ span := sp, reason := reason }] := by
  unfold State.requestTail
  cases s.recheckAnswer sp <;> simp [State.setRecheck]

@[simp] theorem State.requestTail_entries (s : State) (sp : Span) (reason : RecheckReason) :
    (s.requestTail sp reason).conditions.entries = s.conditions.entries := by
  unfold State.requestTail
  cases s.recheckAnswer sp <;> simp [State.setRecheck]

@[simp] theorem State.requestHead_entries (s : State) (sp : Span) (cls : PulseClass) :
    (s.requestHead sp cls).conditions.entries = s.conditions.entries := by
  unfold State.requestHead
  cases s.recheckAnswer sp <;> simp [State.setRecheck]

/-- After a removal the queue holds the other spans' entries, in order (R149). -/
theorem State.removeRecheck_recheck (s : State) (sp : Span) :
    (s.removeRecheck sp).conditions.recheck = s.conditions.recheck.filter fun e => e.span != sp := by
  unfold State.removeRecheck
  split
  · simp [State.setRecheck]
  · rename_i h
    symm
    simp only [State.queued, List.any_eq_true, beq_iff_eq, not_exists, not_and] at h
    simpa [List.filter_eq_self] using h

@[simp] theorem State.removeRecheck_entries (s : State) (sp : Span) :
    (s.removeRecheck sp).conditions.entries = s.conditions.entries := by
  unfold State.removeRecheck
  split <;> simp [State.setRecheck]

/-- An update keeps every span of the queue in its place (R147). -/
@[simp] theorem updateRecheck_spans (sp : Span) (reason : RecheckReason) (q : List RecheckEntry) :
    (updateRecheck sp reason q).map (·.span) = q.map (·.span) := by
  induction q with
  | nil => rfl
  | cons e rest ih =>
    unfold updateRecheck
    split <;> simp [ih]

end Sys2Proof.Machine
end

