-- ==== Sys2Proof/Laws/Shots.lean ====
section
/-! SUPPORT. What the operations of a sweep over its shots can do: the test of the firing conditions, the judgements, the
header, the selector's table, in the words of Safety.lean. -/

namespace Sys2Proof.Machine

@[simp] theorem State.context_setContext {s : State} {c : SweepContext} (h : s.context = some c) (d : SweepContext) :
    (s.setContext d).context = some d := by
  unfold State.context at h ⊢
  unfold State.setContext
  cases hb : s.engine.bank <;> simp_all

@[simp] theorem State.setContext_engine (s : State) (d : SweepContext) : (s.setContext d).engine = s.engine := by
  unfold State.setContext
  split <;> simp

@[simp] theorem State.setContext_port (s : State) (d : SweepContext) : (s.setContext d).port = s.port := by
  unfold State.setContext
  split <;> simp

/-- A FIRE is what Safety says of one. -/
theorem State.fire_eq (s : State) (c : SweepContext) (dark : Bool) : s.fire c dark = s.fired c dark := rfl

/-- The condition of a FIRE, as a proposition (R67). -/
theorem Port.admits_iff (s : State) (n : Nat) : s.port.admits n = true ↔ s.Admits n := by
  unfold Port.admits State.Admits Config.fifoCapacity
  exact decide_eq_true_iff

/-- A FIRE is due (R49). -/
theorem State.fireDue_iff (s : State) (c : SweepContext) : s.fireDue c = true ↔ s.FireIsDue c := by
  simp [State.fireDue, State.FireIsDue, Port.admits_iff, and_assoc]

/-- One test of R49. -/
theorem State.fireTest_tested (s : State) (c : SweepContext) : TestedOnce s (s.fireTest c) c := by
  have h := s.fireDue_iff c
  unfold State.fireTest
  refine ⟨fun h1 => ?_, fun h1 h2 h3 => ?_, fun h1 h2 h3 => ?_⟩
  · rw [if_neg]
    simp only [Bool.and_eq_true, beq_iff_eq, h, not_and]
    intro hf
    exact h1.resolve_left (by simp [hf])
  · simp [h1, h.mpr h2, h3, State.fire_eq]
  · simp [h1, h.mpr h2, h3, State.withEngine]

/-- The test of the firing conditions (R46, R49). -/
theorem State.retest_tested (s : State) : Tested s s.retest := by
  refine ⟨fun h => ?_, fun c hc => ⟨fun h1 h2 h3 => ?_, fun h1 h2 => ?_, fun h1 => ?_⟩⟩
  · unfold State.retest
    rcases h with h | ⟨h1, h2⟩
    · rw [h]
    · split
      · rfl
      · split <;> simp_all
  · have h3' := (Port.admits_iff s c.settings.binCount).mpr h3
    simp [State.retest, hc, h1, State.darkTest, h2, h3', State.fire_eq]
  · simp only [State.retest, hc, h1, State.darkTest]
    rw [if_neg]
    simp only [Bool.and_eq_true, List.isEmpty_iff, Port.admits_iff, not_and]
    intro he
    exact h2.resolve_left (by simp [he])
  · simp only [State.retest, hc, h1]
    exact ⟨_, s.fireTest_tested c, (s.fireTest c).fireTest_tested c⟩

/-- The decision of an outcome. -/
theorem State.decideOutcome_eq (s : State) (o : EngineOutcome) :
    s.decideOutcome o = { s with engine := s.engine.decided o, port := s.port.discardSweep } := rfl

/-- What the port does at a decided outcome (R76). -/
theorem Port.discardSweep_nil {p : Port} (h : p.accumulation = []) :
    p.discardSweep = { p with outstanding := p.outstanding.map fun x => { x with discard := true } } := by
  simp [Port.discardSweep, h]

theorem Port.discardSweep_cons {p : Port} {head : AccumBlock} {rest : List AccumBlock}
    (h : p.accumulation = head :: rest) :
    p.discardSweep =
      { p with
        outstanding := p.outstanding.map fun x => { x with discard := true }
        accumulation := if head.bins - head.summed = 0 then [] else [{ head with counted := false }]
        fifo := p.fifo.take (head.bins - head.summed) ++
          p.fifo.drop (head.bins - head.summed + (rest.map (·.bins)).sum) } := by
  unfold Port.discardSweep
  rw [h]
  rfl

/-- A judgement that does not count changes nothing (R54). -/
theorem State.deliver_uncounted {s : State} {dark : Bool} (h : s.context = none ∨ ¬s.Counts dark) (j : Judgement) :
    s.deliver dark j = s := by
  unfold State.deliver State.Counts at *
  split
  · rfl
  · split <;> simp_all

/-- A judgement that counts is taken (R47, R50). -/
theorem State.deliver_counted {s : State} {dark : Bool} {c : SweepContext} (hc : s.context = some c) (h : s.Counts dark)
    (j : Judgement) : s.deliver dark j = s.takeJudgement c dark j := by
  unfold State.deliver
  rw [hc]
  rcases h with ⟨h, rfl⟩ | ⟨h | h, rfl⟩ <;> simp [h]

theorem SweepContext.tally_torn (c : SweepContext) (dark : Bool) : c.tally dark .torn = c.rejectedOnce := rfl

theorem SweepContext.tally_saturated (c : SweepContext) (dark : Bool) : c.tally dark .saturated = c.rejectedOnce := rfl

theorem State.endByJudgement_lit {s : State} (c : SweepContext) :
    (s.setContext c).endByJudgement .lit = s.lit c := by
  simp [State.endByJudgement, State.decideOutcome_eq, State.lit]

/-- A judgement torn (R47, R50, R71). -/
theorem State.deliver_torn (s : State) (dark : Bool) : Rejected s (s.deliver dark .torn) dark False := by
  refine ⟨fun h => s.deliver_uncounted h _, fun c hc h => ⟨fun hl => ?_, fun _ hl => ?_⟩⟩
  · have hl' : c.rejectedOnce.settings.rejectLimit ≤ c.rejectedOnce.rejected := hl.resolve_left id
    simp [State.deliver_counted hc h, State.takeJudgement, SweepContext.tally_torn, SweepContext.outcomeOf, hl',
      State.endByJudgement_lit]
  · have hl' : ¬c.rejectedOnce.settings.rejectLimit ≤ c.rejectedOnce.rejected := Nat.not_le.mpr hl
    simp only [State.deliver_counted hc h, State.takeJudgement, SweepContext.tally_torn, SweepContext.outcomeOf, hl',
      if_false]
    exact State.retest_tested _

/-- What a saturated block decides (R47, R50). -/
theorem SweepContext.outcomeOf_saturated (c : SweepContext) (dark : Bool) :
    c.outcomeOf dark .saturated = if dark = true ∨ c.settings.rejectLimit ≤ c.rejected then some .lit else none := by
  cases dark <;> simp [SweepContext.outcomeOf]

/-- A judgement saturated: a dark block ends the sweep LIT at once (R47, R50). -/
theorem State.deliver_saturated (s : State) (dark : Bool) :
    Rejected s (s.deliver dark .saturated) dark (dark = true) := by
  refine ⟨fun h => s.deliver_uncounted h _, fun c hc h => ⟨fun hl => ?_, fun hd hl => ?_⟩⟩
  · have hl' : dark = true ∨ c.rejectedOnce.settings.rejectLimit ≤ c.rejectedOnce.rejected := hl
    simp only [State.deliver_counted hc h, State.takeJudgement, SweepContext.tally_saturated,
      SweepContext.outcomeOf_saturated, if_pos hl', State.endByJudgement_lit]
  · have hl' : ¬(dark = true ∨ c.rejectedOnce.settings.rejectLimit ≤ c.rejectedOnce.rejected) :=
      fun x => x.elim hd (Nat.not_le.mpr hl)
    simp only [State.deliver_counted hc h, State.takeJudgement, SweepContext.tally_saturated,
      SweepContext.outcomeOf_saturated, if_neg hl']
    exact State.retest_tested _

/-- A judgement accepted (R47, R50). -/
theorem State.deliver_accepted (s : State) (dark : Bool) (mean : Nat) :
    Accepted s (s.deliver dark (.accepted mean)) dark mean := by
  refine ⟨fun h => s.deliver_uncounted h _, fun c hc h => ⟨fun hd => ?_, fun hd hm => ?_, fun hd hm => ?_⟩⟩
  · subst hd
    simp only [State.deliver_counted hc h, State.takeJudgement, SweepContext.tally, SweepContext.outcomeOf,
      Bool.false_and, Bool.false_eq_true, if_false]
    exact State.retest_tested _
  · subst hd
    have hm' : ¬c.settings.litLevel ≤ mean := Nat.not_le.mpr hm
    simp only [State.deliver_counted hc h, State.takeJudgement, SweepContext.tally, SweepContext.outcomeOf,
      Bool.true_and, decide_eq_true_eq, hm', if_false, if_true]
    have := State.retest_tested ((s.setContext { c with consecutiveLost := 0 }).setEngineState .firing)
    simpa only [State.setEngineState, State.withEngine, State.setContext_engine] using this
  · subst hd
    simp [State.deliver_counted hc h, State.takeJudgement, SweepContext.tally, SweepContext.outcomeOf, hm,
      State.endByJudgement_lit]

/-- A header met by no open block (R68). -/
theorem State.takeHeader_headed (s : State) (tag : Byte) (bins : Half) :
    Headed s (s.withPort (s.port.takeHeader tag bins)) tag bins := by
  refine ⟨fun x h => ?_, fun h => ?_⟩ <;> simp only [Port.takeHeader, h] <;> rfl

/-- The tear of an open block (R71). -/
theorem State.tear_rejected {s : State} {b : OpenBlock} {x : Shot} (h : s.port.shot b.tag = some x) :
    Rejected
      { s with port := { s.port with
        intake := .noBlock, outstanding := s.port.outstanding.filter fun x => x.tag != b.tag
        fifo := s.port.fifo.take (s.port.fifo.length - b.count) } }
      (s.tear b) x.dark False := by
  unfold State.tear
  rw [h]
  exact State.deliver_torn _ _

/-- The table of R43, from SELECTING. -/
theorem State.select_selects {s : State} {c : SweepContext} (h : s.engine.state = .selecting) : Selects s (s.select c) c := by
  refine ⟨fun hs => ?_, fun hs => ?_, fun p hs => ?_, fun hs => ?_⟩
  · have : s.select c = (s.setEngineState .darkCheck).retest := by simp [State.select, hs, State.enterDarkCheck]
    rw [this]
    exact State.retest_tested _
  · simp [State.select, hs, State.enterSettling, State.withEngine]
  · have : s.select c = s.setEngineState .selecting := by simp [State.select, hs]
    rw [this, ← h]
    rfl
  · have : s.select c = s.sendSelect c.port := by
      rcases hs with hs | ⟨p, x, hs, hp⟩ <;> simp_all [State.select]
    rw [this, State.sendSelect, ← h]
    rfl

end Sys2Proof.Machine
end

