-- ==== Sys2Proof/Laws/Ends.lean ====
section
/-! SUPPORT. What the operations over window, cycles and records can do: an edge record put, the window opened and left, the
end of a sweep counted, the closing actions, one replayed boundary, in the words of Safety.lean. -/

namespace Sys2Proof.Machine

/-- States that agree in every field are equal. -/
theorem State.ext_fields {s t : State} (h1 : s.plan = t.plan) (h2 : s.window = t.window) (h3 : s.engine = t.engine)
    (h4 : s.port = t.port) (h5 : s.banks = t.banks) (h6 : s.baselines = t.baselines) (h7 : s.analyser = t.analyser)
    (h8 : s.conditions = t.conditions) (h9 : s.reports = t.reports) (h10 : s.notices = t.notices)
    (h11 : s.link = t.link) (h12 : s.outputs = t.outputs) (h13 : s.freeCount = t.freeCount)
    (h14 : s.pending = t.pending) : s = t := by
  cases s
  cases t
  simp_all

/-! ### Notices -/

theorem NoticeKind.number_inj {k j : NoticeKind} (h : k.number.val = j.number.val) : k = j := by
  cases k <;> cases j <;> first | rfl | exact absurd h (by decide)

/-- A kind is in the set with one more kind exactly when it was, or is that kind (R161). -/
theorem NoticeKind.isIn_or (k j : NoticeKind) (x : BitVec 13) :
    k.isIn (x ||| kindBit j.number) = true ↔ k.isIn x = true ∨ k = j := by
  have hk : k.number.val < 13 := k.number.isLt
  unfold NoticeKind.isIn kindBit
  rw [BitVec.getLsbD_or, BitVec.getLsbD_twoPow]
  simp only [Bool.or_eq_true, Bool.and_eq_true, decide_eq_true_eq]
  constructor
  · rintro (h | ⟨_, h⟩)
    · exact .inl h
    · exact .inr (NoticeKind.number_inj h.symm)
  · rintro (h | rfl)
    · exact .inl h
    · exact .inr ⟨hk, rfl⟩

/-- Notices that nothing has touched, and back-pressure with them. -/
theorem NoticesGain.of_eq {s t : State} (hn : t.notices = s.notices)
    (hb : t.reports.backPressure = true → s.reports.backPressure = true) : NoticesGain s t [] := by
  refine ⟨by rw [hn], fun k => ?_⟩
  rw [hn]
  simp only [List.not_mem_nil, false_or]
  constructor
  · exact .inl
  · rintro (h | ⟨_, h1, h2⟩)
    · exact h
    · rw [hb h2] at h1; cases h1

/-- One gain after another. -/
theorem NoticesGain.trans {s t u : State} {l m : List NoticeKind} (h1 : NoticesGain s t l) (h2 : NoticesGain t u m)
    (hs : s.reports.backPressure = true → t.reports.backPressure = true)
    (ht : t.reports.backPressure = true → u.reports.backPressure = true) : NoticesGain s u (l ++ m) := by
  refine ⟨h2.1.trans h1.1, fun k => ?_⟩
  rw [h2.2, h1.2]
  simp only [List.mem_append]
  constructor
  · rintro ((h | h | ⟨h, h', h''⟩) | h | ⟨h, h', h''⟩)
    · exact .inl h
    · exact .inr (.inl (.inl h))
    · exact .inr (.inr ⟨h, h', ht h''⟩)
    · exact .inr (.inl (.inr h))
    · refine .inr (.inr ⟨h, ?_, h''⟩)
      by_contra hb
      rw [hs (by simpa using hb)] at h'
      cases h'
  · rintro (h | (h | h) | ⟨h, h', h''⟩)
    · exact .inl (.inl h)
    · exact .inl (.inr (.inl h))
    · exact .inr (.inl h)
    · by_cases hb : t.reports.backPressure = true
      · exact .inl (.inr (.inr ⟨h, h', hb⟩))
      · exact .inr (.inr ⟨h, by simpa using hb, h''⟩)

/-- A gain, with the same kinds in another list. -/
theorem NoticesGain.congr {s t : State} {l m : List NoticeKind} (h : NoticesGain s t l) (hm : ∀ k, k ∈ l ↔ k ∈ m) :
    NoticesGain s t m :=
  ⟨h.1, fun k => by rw [h.2, hm]⟩

/-- A gain between states that agree with others in back-pressure and notices. -/
theorem NoticesGain.of_congr {s t s' t' : State} {l : List NoticeKind} (h : NoticesGain s t l)
    (h1 : s'.notices = s.notices) (h2 : s'.reports.backPressure = s.reports.backPressure)
    (h3 : t'.notices = t.notices) (h4 : t'.reports.backPressure = t.reports.backPressure) : NoticesGain s' t' l := by
  unfold NoticesGain at *
  rw [h1, h2, h3, h4]
  exact h

/-- A kind raised. -/
theorem State.raise_gain (s : State) (k : NoticeKind) : NoticesGain s (s.raise k) [k] := by
  refine ⟨rfl, fun j => ?_⟩
  rw [State.raise_pending, NoticeKind.isIn_or]
  simp only [List.mem_singleton]
  constructor
  · rintro (h | h)
    · exact .inl h
    · exact .inr (.inl h)
  · rintro (h | h | ⟨_, h1, h2⟩)
    · exact .inl h
    · exact .inr h
    · rw [show (s.raise k).reports = s.reports from rfl, h1] at h2; cases h2

/-! ### Records -/

/-- A record at the tail with what back-pressure makes of it (R151, R155). -/
theorem State.pushRecord_eq (s : State) (r : Record) :
    (s.pushRecord r).reports =
      { s.reports with
        records := s.reports.records ++ [r]
        backPressure := s.reports.backPressure || decide (s.reports.pauseMark ≤ s.reports.records.length + 1) } := by
  simp only [State.pushRecord, State.checkPause, Reports.occupancy, State.withReports, List.length_append,
    List.length_singleton]
  cases hb : s.reports.backPressure <;> by_cases hp : s.reports.pauseMark ≤ s.reports.records.length + 1 <;>
    simp [hp, State.raise, State.withNotices]

theorem State.pushRecord_gain (s : State) (r : Record) : NoticesGain s (s.pushRecord r) [] := by
  by_cases h : (s.reports.pauseMark ≤ s.reports.records.length + 1) ∧ s.reports.backPressure = false
  · have : s.pushRecord r =
        ((s.withReports { s.reports with records := s.reports.records ++ [r] }).withReports
          { s.reports with records := s.reports.records ++ [r], backPressure := true }).raise .reportHigh := by
      simp [State.pushRecord, State.checkPause, Reports.occupancy, State.withReports, h.1, h.2]
    rw [this]
    refine ⟨rfl, fun k => ?_⟩
    rw [State.raise_pending, NoticeKind.isIn_or]
    simp only [List.not_mem_nil, false_or, h.2, true_and]
    exact or_congr Iff.rfl ⟨fun hk => ⟨hk, rfl⟩, fun hk => hk.1⟩
  · have : s.pushRecord r = s.withReports { s.reports with records := s.reports.records ++ [r] } := by
      simp only [State.pushRecord, State.checkPause, Reports.occupancy, State.withReports, List.length_append,
        List.length_singleton]
      rw [if_neg]
      simpa using h
    rw [this]
    exact NoticesGain.of_eq rfl id

/-- An edge record, or any record without a reservation (R154). -/
theorem State.putEdge_edged (s : State) (r : Record) :
    (s.putEdge r).reports = s.reports.edged r ∧ NoticesGain s (s.putEdge r) [] ∧
      s.putEdge r = { s with reports := (s.putEdge r).reports, notices := (s.putEdge r).notices } := by
  have hf : s.reports.hasFree = true ↔ s.reports.records.length + s.reports.reserved < 128 := by
    unfold Reports.hasFree Reports.occupancy Config.reportSlots
    exact decide_eq_true_iff
  rcases s.putEdge_cases r with ⟨h, he⟩ | ⟨h, he⟩
  · rw [he]
    refine ⟨?_, s.pushRecord_gain r, ?_⟩
    · rw [State.pushRecord_eq, Reports.edged, if_pos (hf.mp h)]
    · apply State.ext_fields <;> simp
  · rw [he]
    refine ⟨?_, NoticesGain.of_eq rfl id, rfl⟩
    rw [Reports.edged, if_neg (fun x => by rw [hf.mpr x] at h; cases h)]
    rfl

theorem Reports.edged_backPressure (r : Reports) (x : Record) (h : r.backPressure = true) :
    (r.edged x).backPressure = true := by
  unfold Reports.edged
  split <;> simp [h]

/-- A record without a reservation with the notice that goes with it. -/
theorem State.putNoted_edged (s : State) (r : Record) (k : NoticeKind) :
    ((s.putEdge r).raise k).reports = s.reports.edged r ∧ NoticesGain s ((s.putEdge r).raise k) [k] ∧
      (s.putEdge r).raise k =
        { s with reports := ((s.putEdge r).raise k).reports, notices := ((s.putEdge r).raise k).notices } := by
  obtain ⟨h1, h2, h3⟩ := s.putEdge_edged r
  refine ⟨h1, ?_, ?_⟩
  · refine h2.trans ((s.putEdge r).raise_gain k) (fun h => ?_) id
    rw [h1]
    exact Reports.edged_backPressure _ _ h
  · have : (s.putEdge r).raise k =
        { (s.putEdge r) with notices := ((s.putEdge r).raise k).notices } := rfl
    rw [this]
    conv_lhs => rw [h3]
    rfl

/-- The records of one work put into its reservation, which ends with them (R153, R155). -/
theorem State.putAll_worked (s : State) (l : List Record) :
    (s.putAll l).reports =
        { s.reports with
          records := s.reports.records ++ l, reserved := s.reports.reserved - l.length
          backPressure := s.reports.backPressure ||
            (!l.isEmpty && decide (s.reports.pauseMark ≤ s.reports.records.length + l.length)) } ∧
      NoticesGain s (s.putAll l) [] ∧
      s.putAll l = { s with reports := (s.putAll l).reports, notices := (s.putAll l).notices } := by
  induction l generalizing s with
  | nil => exact ⟨by simp [State.putAll], NoticesGain.of_eq rfl id, rfl⟩
  | cons r rest ih =>
    obtain ⟨h1, h2, h3⟩ := ih (s.putReserved r)
    have hp : (s.putReserved r).reports =
        { s.reports with
          records := s.reports.records ++ [r], reserved := s.reports.reserved - 1
          backPressure := s.reports.backPressure || decide (s.reports.pauseMark ≤ s.reports.records.length + 1) } :=
      State.pushRecord_eq _ r
    have hg : NoticesGain s (s.putReserved r) [] :=
      ((s.withReports { s.reports with reserved := s.reports.reserved - 1 }).pushRecord_gain r).of_congr rfl rfl rfl rfl
    refine ⟨?_, hg.trans h2 (fun h => by rw [hp]; simp [h]) (fun h => ?_), ?_⟩
    · simp only [State.putAll, h1, hp]
      cases hb : s.reports.backPressure <;> simp [Nat.sub_sub, Nat.add_comm, Nat.add_left_comm]
      cases rest with
      | nil => simp
      | cons => simp; omega
    · change ((s.putReserved r).putAll rest).reports.backPressure = true
      rw [h1]
      simp [h]
    · apply State.ext_fields <;> simp [State.putAll]

/-- The records of one work put, its reservation ended, and the choice (R153). -/
theorem State.putWork_worked {s : State} {l : List Record} (hl : l ≠ []) (h9 : l.length ≤ 9) :
    (s.putWork l).reports = s.reports.worked l ∧ NoticesGain s (s.putWork l) [] ∧
      (s.putWork l).engine = { s.engine with state := (s.putWork l).engine.state } ∧
      s.putWork l =
        { s with
          engine := (s.putWork l).engine, reports := (s.putWork l).reports, notices := (s.putWork l).notices } := by
  obtain ⟨h1, h2, _⟩ := s.putAll_worked l
  have hr : (s.putWork l).reports = s.reports.worked l := by
    simp only [State.putWork, State.releaseSlots, State.choose_frame, State.withReports_reports, h1, Reports.worked,
      List.isEmpty_eq_false_iff.mpr hl, Bool.not_false, Bool.true_and, Config.reservation]
    congr 1
    omega
  refine ⟨hr, h2.of_congr rfl rfl ?_ ?_, ?_, ?_⟩
  · simp [State.putWork, State.releaseSlots]
  · rw [hr, h1]
    cases l with
    | nil => exact absurd rfl hl
    | cons => rfl
  · simp only [State.putWork, State.releaseSlots]
    rw [State.choose_engine]
    simp
  · apply State.ext_fields <;> simp

/-! ### The choice -/

/-- The choice is a choice (R38, R40). -/
theorem State.choose_chosen (s : State) : Chosen s s.choose := by
  rw [Chosen, State.choose_eq]
  cases h : s.sweepInFlight
  · simp only [Bool.false_eq_true, if_false, false_implies, true_and]
    intro _
    rfl
  · simp

/-- What the choice sees is what stands after it. -/
theorem State.choose_sourceExists (s : State) : s.choose.sourceExists = s.sourceExists := by
  simp [State.sourceExists, State.recheckOffers, State.planOffers, State.anyEnabled]

/-! ### The window -/

theorem State.startCycle_plan (s : State) :
    s.startCycle.plan = if s.anyEnabled = true then s.plan.begun else s.plan := by
  unfold State.startCycle
  dsimp only
  split
  · simp only [State.choose_frame, State.withPlan_plan]
    rfl
  · rfl

/-- A choice after changes that leave the engine be, but for choices. -/
theorem State.choose_chosen_of {s u : State} (h1 : u.sweepInFlight = s.sweepInFlight)
    (h2 : u.engine = { s.engine with state := u.engine.state })
    (h3 : s.sweepInFlight = true → u.engine.state = s.engine.state) : Chosen s u.choose := by
  obtain ⟨c1, c2⟩ := u.choose_chosen
  refine ⟨fun h => ?_, fun h => ?_⟩
  · rw [c1 (h1.trans h), h2, h3 h]
  · rw [c2 (h1.trans h), h2]

theorem State.startCycle_engine (s : State) :
    s.startCycle.engine = { s.engine with state := s.startCycle.engine.state } ∧
      s.startCycle.sweepInFlight = s.sweepInFlight ∧
      (s.sweepInFlight = true → s.startCycle.engine.state = s.engine.state) := by
  unfold State.startCycle
  dsimp only
  split
  · refine ⟨by rw [State.choose_engine]; rfl, by rw [State.choose_sweepInFlight]; rfl, fun h => ?_⟩
    have hf : (s.withPlan
      { s.plan with
        active := some (.fresh (nextCycleNumber s.plan.lastNumber) s.plan.cursor),
        lastNumber := nextCycleNumber s.plan.lastNumber }).sweepInFlight = true := h
    rw [State.choose_eq, if_pos hf]
    rfl
  · exact ⟨rfl, rfl, fun _ => rfl⟩

/-- The window opened from a state in which it is not OPEN (R29). -/
theorem State.openWindow_opens {s : State} (h : s.window.state ≠ .opened) (cause : EdgeCause) :
    Opens s (s.openWindow cause) cause := by
  have key : ∀ u : State, u.engine = s.engine → u.plan = s.plan → u.startCycle.choose.plan =
      (if s.anyEnabled = true then s.plan.begun else s.plan) ∧ Chosen s u.startCycle.choose := by
    intro u hu hp
    have hf : u.sweepInFlight = s.sweepInFlight := by simp [State.sweepInFlight, hu]
    obtain ⟨e1, e2, e3⟩ := u.startCycle_engine
    refine ⟨?_, State.choose_chosen_of (e2.trans hf) (by rw [← hu]; exact e1) (fun x => ?_)⟩
    · simp only [State.choose_frame, State.startCycle_plan, State.anyEnabled, hp]
      rfl
    · rw [e3 (hf.trans x), hu]
  cases hw : s.window.state with
  | opened => exact absurd hw h
  | closed =>
    have ho : s.openWindow cause =
        ((((s.withWindow { s.window with state := .opened, grace := .stopped }).putEdge
          (.windowEdge .opened cause s.window.time s.window.integrity)).raise .windowEdge).startCycle).choose := by
      simp [State.openWindow, hw, State.putWindowEdge]
    obtain ⟨p1, p2, p3⟩ := (s.withWindow { s.window with state := .opened, grace := .stopped }).putNoted_edged
      (.windowEdge .opened cause s.window.time s.window.integrity) .windowEdge
    obtain ⟨k1, k2⟩ := key (((s.withWindow { s.window with state := .opened, grace := .stopped }).putEdge
      (.windowEdge .opened cause s.window.time s.window.integrity)).raise .windowEdge) (by simp) (by simp)
    rw [Opens, ho]
    simp only [hw, if_true]
    refine ⟨by simp, k1, ?_, ?_, k2, ?_⟩
    · simp only [State.choose_frame, State.startCycle_frame]
      exact p1
    · exact p2.of_congr rfl rfl (by simp) (by simp)
    · apply State.ext_fields <;> simp
  | closing =>
    have ho : s.openWindow cause =
        ((s.withWindow { s.window with state := .opened, grace := .stopped }).startCycle).choose := by
      simp [State.openWindow, hw]
    obtain ⟨k1, k2⟩ := key (s.withWindow { s.window with state := .opened, grace := .stopped }) (by simp) (by simp)
    rw [Opens, ho]
    simp only [hw]
    refine ⟨by simp, k1, by simp, ?_, k2, ?_⟩
    · exact NoticesGain.of_eq (by simp) (by simp)
    · apply State.ext_fields <;> simp

/-- The CYCLE_END that the end of the ACTIVE cycle puts at once (R13). -/
def Plan.endsNow (p : Plan) : List Record :=
  match p.active with
  | some c => if c.inFlight = 0 then [({ cycle := c, reason := .close, notReached := p.notReached c } : EndingCycle).record] else []
  | none => []

/-- The plan after the end of its ACTIVE cycle (R11, R13). -/
def Plan.closed (p : Plan) : Plan :=
  { p with
    active := none
    ending :=
      match p.active with
      | some c => if c.inFlight = 0 then p.ending else p.ending ++ [{ cycle := c, reason := .close, notReached := p.notReached c }]
      | none => p.ending }

/-- The ACTIVE cycle ended with reason CLOSE (R11, R13). -/
theorem State.closeCycle_closed (s : State) :
    s.closeCycle.plan = s.plan.closed ∧ s.closeCycle.reports = s.reports.edgedAll s.plan.endsNow ∧
      NoticesGain s s.closeCycle (if s.plan.endsNow = [] then [] else [.cycleDone]) := by
  unfold State.closeCycle State.endCycle Plan.closed Plan.endsNow
  cases ha : s.plan.active with
  | none =>
    refine ⟨?_, rfl, NoticesGain.of_eq rfl id⟩
    change s.plan = _
    cases hp : s.plan
    simp_all
  | some c =>
    by_cases h0 : c.inFlight = 0
    · simp only [h0, if_true]
      obtain ⟨p1, p2, p3⟩ := (s.withPlan { s.plan with active := none }).putNoted_edged
        ({ cycle := c, reason := .close, notReached := s.plan.notReached c } : EndingCycle).record .cycleDone
      refine ⟨by simp [State.putCycleEnd], p1, ?_⟩
      exact p2.of_congr rfl rfl rfl rfl
    · simp only [h0, if_false]
      exact ⟨rfl, rfl, NoticesGain.of_eq rfl id⟩

/-- The CLOSED edge that leaving OPEN puts at once (R30). -/
def State.edgesNow (s : State) : List Record :=
  if s.sweepInFlight = true then [] else [s.window.closedEdge]

/-- The sweep in flight is cut at once, the grace being 0 (R31, R61). -/
def State.CutNow (s : State) : Prop :=
  s.sweepInFlight = true ∧ s.window.graceSetting = 0 ∧ ∃ c, s.context = some c ∧ s.stoppable c = true

/-- An entry into CLOSED puts its edge record (R33). -/
theorem State.enterClosed_closed (s : State) :
    s.enterClosed.window = { s.window with state := .closed, grace := .stopped } ∧
      s.enterClosed.reports = s.reports.edged s.window.closedEdge ∧ NoticesGain s s.enterClosed [.windowEdge] := by
  obtain ⟨p1, p2, _⟩ := (s.withWindow { s.window with state := .closed, grace := .stopped }).putNoted_edged
    s.window.closedEdge .windowEdge
  exact ⟨by simp [State.enterClosed], p1, p2.of_congr rfl rfl rfl rfl⟩

/-- A cut (R61). -/
theorem State.cut_eq (s : State) :
    (∀ c, s.context = some c → s.stoppable c = true →
      s.cut = { s with engine := s.engine.decided .cut, port := s.port.discardSweep }) ∧
    ((∀ c, s.context = some c → s.stoppable c = false) → s.cut = s) := by
  unfold State.cut
  cases h : s.context with
  | none => exact ⟨fun _ h => (by cases h), fun _ => rfl⟩
  | some c =>
    refine ⟨fun d hd hs => ?_, fun hs => ?_⟩
    · cases hd
      simp [hs, State.decideOutcome_eq]
    · simp [hs c rfl]

/-- The window's own part of leaving OPEN (R30, R31). -/
theorem State.shutWindow_shut (s : State) :
    (s.sweepInFlight = false → s.shutWindow.window = { s.window with state := .closed, grace := .stopped }) ∧
    (s.sweepInFlight = true → s.shutWindow.window =
      { s.window with
        state := .closing
        grace := if s.window.graceSetting = 0 then .expired else .running s.window.graceSetting }) ∧
    s.shutWindow.reports = s.reports.edgedAll s.edgesNow ∧
    NoticesGain s s.shutWindow (if s.edgesNow = [] then [] else [.windowEdge]) ∧
    (s.CutNow → s.shutWindow.engine = s.engine.decided .cut ∧ s.shutWindow.port = s.port.discardSweep) ∧
    (¬s.CutNow → s.shutWindow.engine = s.engine ∧ s.shutWindow.port = s.port) := by
  unfold State.shutWindow State.edgesNow State.CutNow
  cases hf : s.sweepInFlight with
  | false =>
    obtain ⟨p1, p2, p3⟩ := s.enterClosed_closed
    simp only [Bool.false_eq_true, if_false, false_implies, false_and, not_false_eq_true, true_implies, true_and]
    exact ⟨p1, p2, p3, by simp [State.enterClosed]⟩
  | true =>
    simp only [if_true, Bool.true_eq_false, false_implies, true_and, true_implies]
    unfold State.enterClosing
    dsimp only
    by_cases hg : s.window.graceSetting = 0
    · rw [if_pos hg]
      generalize hv : s.withWindow { s.window with state := .closing, grace := .running s.window.graceSetting } = v
      have hvf : v.sweepInFlight = true := by rw [← hv]; exact hf
      have hw : ({ v.window with grace := .expired } : Window) =
          { s.window with state := .closing, grace := .expired } := by rw [← hv]; rfl
      have hu : v.withWindow { v.window with grace := .expired } =
          s.withWindow { s.window with state := .closing, grace := .expired } := by rw [hw, ← hv]; rfl
      simp only [State.graceEnds, hvf, if_true, hu]
      rw [if_pos hg]
      obtain ⟨k1, k2⟩ := (s.withWindow { s.window with state := .closing, grace := .expired }).cut_eq
      by_cases hs : ∃ c, s.context = some c ∧ s.stoppable c = true
      · obtain ⟨c, hc, hc'⟩ := hs
        rw [k1 c hc hc']
        exact ⟨rfl, rfl, NoticesGain.of_eq rfl id, fun _ => ⟨rfl, rfl⟩, fun h => absurd ⟨hg, c, hc, hc'⟩ h⟩
      · rw [k2 (fun c hc => by
          cases hx : State.stoppable _ c
          · rfl
          · exact absurd ⟨c, hc, hx⟩ hs)]
        exact ⟨rfl, rfl, NoticesGain.of_eq rfl id, fun h => absurd h.2 hs, fun _ => ⟨rfl, rfl⟩⟩
    · simp only [hg, if_false, false_and, false_implies, not_false_eq_true, true_implies, true_and]
      exact ⟨rfl, rfl, NoticesGain.of_eq rfl id, rfl, rfl⟩

theorem Reports.edgedAll_append (r : Reports) (l m : List Record) :
    r.edgedAll (l ++ m) = (r.edgedAll l).edgedAll m := by
  simp [Reports.edgedAll]

theorem Reports.edgedAll_backPressure (l : List Record) : ∀ r : Reports, r.backPressure = true →
    (r.edgedAll l).backPressure = true := by
  induction l with
  | nil => exact fun _ h => h
  | cons x rest ih => exact fun r h => ih _ (Reports.edged_backPressure r x h)

/-- The CLOSED edge leaves OPEN with the cause that is being recorded. -/
def State.shutRecords (s : State) (cause : EdgeCause) : List Record :=
  if s.sweepInFlight = true then [] else [.windowEdge .closed cause s.window.time s.window.integrity]

/-- What the parts of leaving OPEN do, in either order, makes what leaving OPEN does. -/
theorem State.leaves_of {s u : State} {cause : EdgeCause} (h1 : u.plan = s.plan.closed)
    (h2 : s.sweepInFlight = false →
      u.window = { s.window with state := .closed, grace := .stopped, closeCause := some cause })
    (h2' : s.sweepInFlight = true → u.window =
      { s.window with
        state := .closing, closeCause := some cause
        grace := if s.window.graceSetting = 0 then .expired else .running s.window.graceSetting })
    (h3 : u.reports = s.reports.edgedAll (s.plan.endsNow ++ s.shutRecords cause) ∨
      u.reports = s.reports.edgedAll (s.shutRecords cause ++ s.plan.endsNow))
    (h4 : NoticesGain s u
      ((if s.plan.endsNow = [] then [] else [.cycleDone]) ++ if s.shutRecords cause = [] then [] else [.windowEdge]))
    (h5 : s.CutNow → u.engine = s.engine.decided .cut ∧ u.port = s.port.discardSweep)
    (h6 : ¬s.CutNow → u.engine = s.engine ∧ u.port = s.port)
    (h7 : u.nextFree.choose =
      { s with
        window := u.window, plan := u.plan, engine := u.nextFree.choose.engine, port := u.port, reports := u.reports,
        notices := u.notices, freeCount := s.freeCount + 1 }) :
    Leaves s u.nextFree.choose cause := by
  have hp : u.nextFree.choose.port = u.port := by rw [h7]
  have hn : u.nextFree.choose.notices = u.notices := by rw [h7]
  have hr : u.nextFree.choose.reports = u.reports := by rw [h7]
  have hw : u.nextFree.choose.window = u.window := by rw [h7]
  have hl : u.nextFree.choose.plan = u.plan := by rw [h7]
  have hi : u.sweepInFlight = s.sweepInFlight := by
    by_cases hc : s.CutNow
    · rw [State.sweepInFlight, (h5 hc).1, hc.1]
      rfl
    · rw [State.sweepInFlight, (h6 hc).1]
      rfl
  refine ⟨hl.trans h1, fun h => hw.trans (h2 h), fun h => hw.trans (h2' h), ?_, ?_, ?_, ?_, ?_⟩
  · rw [hr]; exact h3
  · exact h4.of_congr rfl rfl hn (by rw [hr])
  · intro hc
    refine ⟨?_, hp.trans (h5 hc).2⟩
    rw [(u.nextFree.choose_chosen).1 (hi.trans hc.1)]
    exact (h5 hc).1
  · intro hc
    refine ⟨State.choose_chosen_of hi ?_ (fun _ => ?_), hp.trans (h6 hc).2⟩
    · rw [show u.nextFree.engine = u.engine from rfl, (h6 hc).1]
    · rw [show u.nextFree.engine = u.engine from rfl, (h6 hc).1]
  · rw [hw, hl, hp, hr, hn]
    exact h7

/-- An OPEN window leaves OPEN (R30). -/
theorem State.leaveOpen_leaves {s : State} (h : s.window.state = .opened) (cause : EdgeCause) :
    Leaves s (s.leaveOpen cause) cause := by
  obtain ⟨r, hr⟩ : ∃ r, r = s.withWindow { s.window with closeCause := some cause } := ⟨_, rfl⟩
  have he : r.edgesNow = s.shutRecords cause := by rw [hr]; rfl
  have hc : r.CutNow ↔ s.CutNow := by rw [hr]; exact Iff.rfl
  have hl : s.leaveOpen cause = (r.inFreeOrder r.closeCycle.shutWindow r.shutWindow.closeCycle).choose := by
    simp [State.leaveOpen, h, hr]
  have first : Leaves s r.closeCycle.shutWindow.nextFree.choose cause := by
    obtain ⟨a1, a2, a3⟩ := r.closeCycle_closed
    obtain ⟨b1, b2, b3, b4, b5, b6⟩ := r.closeCycle.shutWindow_shut
    have hi : r.closeCycle.sweepInFlight = s.sweepInFlight := by simp [State.sweepInFlight, hr]
    have hx : r.closeCycle.edgesNow = s.shutRecords cause := by
      rw [← he]
      simp [State.edgesNow, State.sweepInFlight, Window.closedEdge]
    have hk : r.closeCycle.CutNow ↔ s.CutNow := by
      rw [← hc]
      simp [State.CutNow, State.sweepInFlight, State.context, State.bank, State.stoppable]
    rw [hx] at b3 b4
    rw [hk] at b5 b6
    apply State.leaves_of
    · rw [State.shutWindow_frame _ |>.1, a1, hr]; rfl
    · intro h; rw [b1 (hi.trans h)]; simp [hr]
    · intro h; rw [b2 (hi.trans h)]; simp [hr]
    · left
      rw [b3, a2, Reports.edgedAll_append, hr]; rfl
    · refine ((a3.trans b4 (fun hb => ?_) fun hb => ?_).of_congr (by rw [hr]; rfl) (by rw [hr]; rfl) rfl rfl).congr ?_
      · rw [a2]; exact Reports.edgedAll_backPressure _ _ hb
      · rw [b3]; exact Reports.edgedAll_backPressure _ _ hb
      · intro k; rw [hr]; exact Iff.rfl
    · intro h; obtain ⟨x, y⟩ := b5 h; rw [x, y]; simp [hr]
    · intro h; obtain ⟨x, y⟩ := b6 h; rw [x, y]; simp [hr]
    · apply State.ext_fields <;> simp [State.nextFree, hr]
  have second : Leaves s r.shutWindow.closeCycle.nextFree.choose cause := by
    obtain ⟨a1, a2, a3⟩ := r.shutWindow.closeCycle_closed
    obtain ⟨b1, b2, b3, b4, b5, b6⟩ := r.shutWindow_shut
    have hp : r.shutWindow.plan = s.plan := by simp [hr]
    rw [hp] at a1 a2 a3
    rw [he] at b3 b4
    rw [hc] at b5 b6
    have hi : r.sweepInFlight = s.sweepInFlight := by rw [hr]; rfl
    apply State.leaves_of
    · exact a1
    · intro h; simp only [State.closeCycle_frame]; rw [b1 (hi.trans h), hr]; rfl
    · intro h; simp only [State.closeCycle_frame]; rw [b2 (hi.trans h), hr]; rfl
    · right
      rw [a2, b3, Reports.edgedAll_append, hr]; rfl
    · refine ((b4.trans a3 (fun hb => ?_) fun hb => ?_).of_congr (by rw [hr]; rfl) (by rw [hr]; rfl) rfl rfl).congr ?_
      · rw [b3]; exact Reports.edgedAll_backPressure _ _ hb
      · rw [a2]; exact Reports.edgedAll_backPressure _ _ hb
      · intro k; simp only [List.mem_append]; exact or_comm
    · intro h; obtain ⟨x, y⟩ := b5 h; simp only [State.closeCycle_frame, x, y]; simp [hr]
    · intro h; obtain ⟨x, y⟩ := b6 h; simp only [State.closeCycle_frame, x, y]; simp [hr]
    · apply State.ext_fields <;> simp [State.nextFree, hr]
  rw [hl, State.inFreeOrder]
  cases Config.cycleEndFirst r.freeCount
  · simpa using second
  · simpa using first

/-! ### The end of a sweep counted -/

theorem CycleRecord.countEnd_ended (c : CycleRecord) (as : CountedAs) : c.countEnd as = c.ended as := by
  cases as <;> rfl

theorem CycleRecord.countEnd_number (c : CycleRecord) (as : CountedAs) : (c.countEnd as).number = c.number := by
  cases as <;> rfl

/-- No ENDING record bears the number. -/
theorem countEnding_none {k : Nat} {as : CountedAs} : ∀ {l : List EndingCycle}, (∀ e ∈ l, e.cycle.number ≠ k) →
    countEnding k as l = (none, l)
  | [], _ => rfl
  | e :: rest, h => by
    have ih := countEnding_none (as := as) fun x hx => h x (List.mem_cons_of_mem _ hx)
    simp only [countEnding, if_neg (h e (by simp)), ih]

/-- The first ENDING record that bears the number. -/
theorem countEnding_found {k : Nat} {as : CountedAs} {e : EndingCycle} {after : List EndingCycle}
    (he : e.cycle.number = k) : ∀ {before : List EndingCycle}, (∀ x ∈ before, x.cycle.number ≠ k) →
      countEnding k as (before ++ e :: after) = (some { e with cycle := e.cycle.countEnd as }, before ++ after)
  | [], _ => by simp [countEnding, he]
  | x :: rest, h => by
    have ih := countEnding_found (as := as) (after := after) he fun y hy => h y (List.mem_cons_of_mem _ hy)
    simp only [List.cons_append, countEnding, if_neg (h x (by simp)), ih]

/-- The first ENDING record of a number, replaced. -/
theorem replaceEnding_found {e d : EndingCycle} {after : List EndingCycle} (he : e.cycle.number = d.cycle.number) :
    ∀ {before : List EndingCycle}, (∀ x ∈ before, x.cycle.number ≠ d.cycle.number) →
      replaceEnding d (before ++ e :: after) = before ++ d :: after
  | [], _ => by simp [replaceEnding, he]
  | x :: rest, h => by
    have ih := replaceEnding_found (after := after) he fun y hy => h y (List.mem_cons_of_mem _ hy)
    simp only [List.cons_append, replaceEnding, if_neg (h x (by simp)), ih]

/-- Either no ENDING record bears the number, or a first one does. -/
theorem endings_split (k : Nat) : ∀ l : List EndingCycle, (∀ e ∈ l, e.cycle.number ≠ k) ∨
    ∃ before e after, l = before ++ e :: after ∧ e.cycle.number = k ∧ ∀ x ∈ before, x.cycle.number ≠ k
  | [] => .inl (by simp)
  | e :: rest => by
    by_cases he : e.cycle.number = k
    · exact .inr ⟨[], e, rest, rfl, he, by simp⟩
    · rcases endings_split k rest with h | ⟨b, d, a, h, hd, hb⟩
      · left
        intro x hx
        rcases List.mem_cons.mp hx with rfl | hx
        · exact he
        · exact h x hx
      · refine .inr ⟨e :: b, d, a, by rw [h]; rfl, hd, ?_⟩
        intro x hx
        rcases List.mem_cons.mp hx with rfl | hx
        · exact he
        · exact hb x hx

/-- A first record of a number is the first one wherever it is looked for. -/
theorem endings_unique {k : Nat} {a a' : List EndingCycle} {e e' : EndingCycle} (he : e.cycle.number = k)
    (he' : e'.cycle.number = k) : ∀ {b b' : List EndingCycle}, (∀ x ∈ b, x.cycle.number ≠ k) →
      (∀ x ∈ b', x.cycle.number ≠ k) → b ++ e :: a = b' ++ e' :: a' → b = b' ∧ e = e' ∧ a = a'
  | [], [], _, _, h => by simpa using h
  | [], y :: b', _, h', h => by
    simp only [List.nil_append, List.cons_append, List.cons.injEq] at h
    exact absurd he (by rw [h.1]; exact h' y (by simp))
  | x :: b, [], h0, _, h => by
    simp only [List.nil_append, List.cons_append, List.cons.injEq] at h
    exact absurd he' (by rw [← h.1]; exact h0 x (by simp))
  | x :: b, y :: b', h0, h', h => by
    simp only [List.cons_append, List.cons.injEq] at h
    obtain ⟨h1, h2, h3⟩ := endings_unique he he' (fun z hz => h0 z (by simp [hz])) (fun z hz => h' z (by simp [hz])) h.2
    exact ⟨by rw [h.1, h1], h2, h3⟩

/-- The end of a sweep counted (R12, R13). -/
theorem State.countEnded_counted (s : State) (cycle : Option Nat) (as : CountedAs) :
    ∃ ends, EndCounted s.plan (s.countEnded cycle as).plan cycle as ends ∧
      (s.countEnded cycle as).reports = s.reports.edgedAll ends ∧
      NoticesGain s (s.countEnded cycle as) (if ends = [] then [] else [.cycleDone]) := by
  cases cycle with
  | none => exact ⟨[], ⟨fun _ => ⟨rfl, rfl⟩, fun _ h => by cases h⟩, rfl, NoticesGain.of_eq rfl id⟩
  | some k =>
    by_cases hk : ∃ a, s.plan.active = some a ∧ a.number = k
    · obtain ⟨a, ha, hn⟩ := hk
      refine ⟨[], ⟨fun h => (by cases h), fun k' hk' => ?_⟩, ?_⟩
      · cases hk'
        refine ⟨fun a' ha' _ => ?_, fun h => absurd hn (h a ha)⟩
        rw [ha] at ha'
        cases ha'
        simp [State.countEnded, ha, hn, CycleRecord.countEnd_ended]
      · simp only [State.countEnded, ha, hn, if_true]
        exact ⟨rfl, NoticesGain.of_eq rfl id⟩
    · have hd : s.countEnded (some k) as = s.countEndedEnding k as := by
        unfold State.countEnded
        cases ha : s.plan.active with
        | none => rfl
        | some a => simp only [if_neg fun h => hk ⟨a, ha, h⟩]
      have hx : ∀ a, s.plan.active = some a → a.number ≠ k := fun a ha h => hk ⟨a, ha, h⟩
      rw [hd]
      unfold State.countEndedEnding
      rcases endings_split k s.plan.ending with h | ⟨b, e, a, h, he, hb⟩
      · rw [countEnding_none h]
        refine ⟨[], ⟨fun h => (by cases h), fun k' hk' => ?_⟩, rfl, NoticesGain.of_eq rfl id⟩
        cases hk'
        refine ⟨fun a ha hn => absurd hn (hx a ha), fun _ => ⟨fun _ => ⟨rfl, rfl⟩, fun b e a hl he _ => ?_⟩⟩
        exact absurd he (h e (by simp [hl]))
      · rw [h, countEnding_found he hb]
        have hr : (e.cycle.ended as).number = k := by
          rw [← CycleRecord.countEnd_ended, CycleRecord.countEnd_number, he]
        simp only [CycleRecord.countEnd_ended]
        have key : ∀ (q : Plan) (ends : List Record),
            ((e.cycle.ended as).inFlight = 0 → q = { s.plan with ending := b ++ a } ∧
              ends = [({ e with cycle := e.cycle.ended as } : EndingCycle).record]) →
            ((e.cycle.ended as).inFlight ≠ 0 → q =
              { s.plan with ending := b ++ { e with cycle := e.cycle.ended as } :: a } ∧ ends = []) →
            EndCounted s.plan q (some k) as ends := by
          intro q ends h1 h2
          refine ⟨fun h => (by cases h), fun k' hk' => ?_⟩
          cases hk'
          refine ⟨fun a ha hn => absurd hn (hx a ha), fun _ => ⟨fun h' => ?_, fun b' e' a' hl he' hb' => ?_⟩⟩
          · exact absurd he (h' e (by simp [h]))
          · obtain ⟨u1, u2, u3⟩ := endings_unique he he' hb hb' (h.symm.trans hl)
            rw [← u1, ← u2, ← u3]
            exact ⟨h1, h2⟩
        by_cases h0 : (e.cycle.ended as).inFlight = 0
        · rw [if_pos h0]
          obtain ⟨p1, p2, _⟩ := (s.withPlan { s.plan with ending := b ++ a }).putNoted_edged
            ({ e with cycle := e.cycle.ended as } : EndingCycle).record .cycleDone
          refine ⟨[({ e with cycle := e.cycle.ended as } : EndingCycle).record], ?_, p1, p2.of_congr rfl rfl rfl rfl⟩
          refine key _ _ (fun _ => ⟨?_, rfl⟩) fun h => absurd h0 h
          simp [State.putCycleEnd]
        · rw [if_neg h0]
          refine ⟨[], ?_, rfl, NoticesGain.of_eq rfl id⟩
          refine key _ _ (fun h => absurd h h0) fun _ => ⟨?_, rfl⟩
          rw [replaceEnding_found (by rw [he, hr]) (by simpa [hr] using hb)]
          rfl

/-- What the count of an end puts depends on the plan alone. -/
theorem EndCounted.unique {p q q' : Plan} {cycle : Option Nat} {as : CountedAs} {l l' : List Record}
    (h : EndCounted p q cycle as l) (h' : EndCounted p q' cycle as l') : q = q' ∧ l = l' := by
  have key : ∀ {q q' : Plan} {l l' x : List Record} {r : Plan}, q = r ∧ l = x → q' = r ∧ l' = x → q = q' ∧ l = l' := by
    rintro _ _ _ _ _ _ ⟨rfl, rfl⟩ ⟨rfl, rfl⟩
    exact ⟨rfl, rfl⟩
  cases cycle with
  | none => exact key (h.1 rfl) (h'.1 rfl)
  | some k =>
    obtain ⟨h1, h2⟩ := h.2 k rfl
    obtain ⟨h1', h2'⟩ := h'.2 k rfl
    by_cases hk : ∃ a, p.active = some a ∧ a.number = k
    · obtain ⟨a, ha, hn⟩ := hk
      exact key (h1 a ha hn) (h1' a ha hn)
    · have hx : ∀ a, p.active = some a → a.number ≠ k := fun a ha h => hk ⟨a, ha, h⟩
      obtain ⟨n1, n2⟩ := h2 hx
      obtain ⟨n1', n2'⟩ := h2' hx
      rcases endings_split k p.ending with h | ⟨b, e, a, h, he, hb⟩
      · exact key (n1 h) (n1' h)
      · obtain ⟨m1, m2⟩ := n2 b e a h he hb
        obtain ⟨m1', m2'⟩ := n2' b e a h he hb
        by_cases h0 : (e.cycle.ended as).planStarted + (e.cycle.ended as).extraStarted -
            ((e.cycle.ended as).planEnded + (e.cycle.ended as).extraEnded) = 0
        · exact key (m1 h0) (m1' h0)
        · exact key (m2 h0) (m2' h0)

/-- The end of the sweep in flight told to the window (R32). -/
theorem State.sweepEnded_told (s : State) :
    s.sweepEnded.window =
        (if s.window.state = .closing then { s.window with state := .closed, grace := .stopped } else s.window) ∧
      s.sweepEnded.reports = s.reports.edgedAll (if s.window.state = .closing then [s.window.closedEdge] else []) ∧
      NoticesGain s s.sweepEnded (if s.window.state = .closing then [.windowEdge] else []) := by
  unfold State.sweepEnded
  by_cases h : s.window.state = .closing
  · obtain ⟨p1, p2, p3⟩ := s.enterClosed_closed
    have h' : (s.window.state == .closing) = true := by simp [h]
    rw [if_pos h', if_pos h, if_pos h, if_pos h]
    exact ⟨p1, p2, p3⟩
  · have h' : (s.window.state == .closing) = false := by simpa using h
    rw [if_neg (by simp [h']), if_neg h, if_neg h, if_neg h]
    exact ⟨rfl, rfl, NoticesGain.of_eq rfl id⟩

/-- The end of a sweep told to plan and window, in either order (R12, R13, R32; log 7). -/
theorem State.tellEnd_told (s : State) (c : SweepContext) :
    let edges := if s.window.state = .closing then [s.window.closedEdge] else []
    ∃ ends, EndCounted s.plan (s.tellEnd c).plan c.cycle c.countedAs ends ∧
      ((s.tellEnd c).reports = s.reports.edgedAll (ends ++ edges) ∨
        (s.tellEnd c).reports = s.reports.edgedAll (edges ++ ends)) ∧
      NoticesGain s (s.tellEnd c)
        ((if ends = [] then [] else [.cycleDone]) ++ if edges = [] then [] else [.windowEdge]) ∧
      (s.tellEnd c).window =
        (if s.window.state = .closing then { s.window with state := .closed, grace := .stopped } else s.window) ∧
      (s.tellEnd c).freeCount = s.freeCount + 1 := by
  intro edges
  have hk : (if s.window.state = .closing then [NoticeKind.windowEdge] else []) =
      if edges = [] then [] else [.windowEdge] := by
    by_cases h : s.window.state = .closing <;> simp [edges, h]
  unfold State.tellEnd State.inFreeOrder
  cases Config.cycleEndFirst s.freeCount
  · obtain ⟨w1, w2, w3⟩ := s.sweepEnded_told
    obtain ⟨ends, c1, c2, c3⟩ := s.sweepEnded.countEnded_counted c.cycle c.countedAs
    refine ⟨ends, ?_, .inr ?_, ?_, ?_, ?_⟩
    · rw [State.sweepEnded_frame s |>.1] at c1; exact c1
    · rw [Reports.edgedAll_append, ← w2]; exact c2
    · rw [hk] at w3
      refine ((w3.trans c3 (fun hb => ?_) fun hb => ?_).of_congr rfl rfl rfl rfl).congr
        fun k => by simp only [List.mem_append]; exact or_comm
      · rw [w2]; exact Reports.edgedAll_backPressure _ _ hb
      · rw [c2]; exact Reports.edgedAll_backPressure _ _ hb
    · simp [w1]
    · simp [State.nextFree]
  · obtain ⟨ends, c1, c2, c3⟩ := s.countEnded_counted c.cycle c.countedAs
    obtain ⟨w1, w2, w3⟩ := (s.countEnded c.cycle c.countedAs).sweepEnded_told
    simp only [State.countEnded_frame, Window.closedEdge] at w1 w2 w3
    refine ⟨ends, ?_, .inl ?_, ?_, ?_, ?_⟩
    · simpa using c1
    · rw [Reports.edgedAll_append, ← c2]; exact w2
    · rw [hk] at w3
      refine (c3.trans w3 (fun hb => ?_) fun hb => ?_).of_congr rfl rfl rfl rfl
      · rw [c2]; exact Reports.edgedAll_backPressure _ _ hb
      · rw [w2]; exact Reports.edgedAll_backPressure _ _ hb
    · simpa using w1
    · simp [State.nextFree]

/-! ### The re-check queue -/

theorem State.queued_iff {s : State} {sp : Span} : s.queued sp = true ↔ ∃ e ∈ s.conditions.recheck, e.span = sp := by
  simp [State.queued]

/-- An entry of a span replaced in its place. -/
theorem updateRecheck_found {sp : Span} {reason : RecheckReason} {e : RecheckEntry} {after : List RecheckEntry}
    (he : e.span = sp) : ∀ {before : List RecheckEntry}, (∀ x ∈ before, x.span ≠ sp) →
      updateRecheck sp reason (before ++ e :: after) = before ++ { span := sp, reason := reason } :: after
  | [], _ => by simp [updateRecheck, he]
  | x :: rest, h => by
    have ih := updateRecheck_found (reason := reason) (after := after) he fun y hy => h y (List.mem_cons_of_mem _ hy)
    simp only [List.cons_append, updateRecheck, if_neg (h x (by simp)), ih]

/-- A request at the tail (R147). -/
theorem State.requestTail_asked (s : State) (sp : Span) (reason : RecheckReason) :
    AskedAtTail s sp reason (s.requestTail sp reason).conditions.recheck ∧
      (s.requestTail sp reason).conditions.entries = s.conditions.entries ∧
      (s.QueueIsFull sp → NoticesGain s (s.requestTail sp reason) [.recheckFull]) ∧
      (¬s.QueueIsFull sp → NoticesGain s (s.requestTail sp reason) []) := by
  have full : s.QueueIsFull sp ↔ s.admissible sp = true ∧ s.queued sp = false ∧ 32 ≤ s.conditions.recheck.length :=
    Iff.rfl
  refine ⟨?_, s.requestTail_entries sp reason, ?_, ?_⟩
  · rw [AskedAtTail, full, s.requestTail_recheck, State.recheckAnswer]
    refine ⟨fun h => ?_, fun ha b e a h he hb => ?_, fun ha hq hl => ?_⟩
    · rcases h with h | ⟨h1, h2, h3⟩
      · simp [h]
      · simp [h1, h2, h3, Config.recheckSlots]
    · have hq : s.queued sp = true := State.queued_iff.mpr ⟨e, by simp [h], he⟩
      simp only [ha, hq, Bool.not_true, Bool.false_eq_true, if_false, if_true]
      rw [h, updateRecheck_found he hb]
    · simp [ha, hq, Config.recheckSlots, Nat.not_le.mpr hl]
  · rintro ⟨h1, h2, h3⟩
    simp only [State.requestTail, State.recheckAnswer, h1, h2, Config.recheckSlots, h3, Bool.not_true,
      Bool.false_eq_true, if_false, if_true]
    exact s.raise_gain _
  · intro h
    unfold State.requestTail
    cases hx : s.recheckAnswer sp with
    | dropped =>
      exfalso
      apply h
      simp only [State.recheckAnswer, Config.recheckSlots] at hx
      rw [full]
      revert hx
      cases s.admissible sp <;> cases s.queued sp <;> by_cases hl : 32 ≤ s.conditions.recheck.length <;> simp [hl]
    | refused => exact NoticesGain.of_eq rfl id
    | updated => exact NoticesGain.of_eq (by simp [State.setRecheck]) (by simp [State.setRecheck])
    | joined => exact NoticesGain.of_eq (by simp [State.setRecheck]) (by simp [State.setRecheck])

/-- A request leaves the engine be, but for its choice. -/
theorem State.requestTail_engine (s : State) (sp : Span) (reason : RecheckReason) :
    (s.requestTail sp reason).engine = { s.engine with state := (s.requestTail sp reason).engine.state } := by
  unfold State.requestTail
  cases s.recheckAnswer sp with
  | refused => rfl
  | dropped => rfl
  | updated => exact State.choose_engine (s.setRecheck (updateRecheck sp reason s.conditions.recheck))
  | joined =>
    exact State.choose_engine (s.setRecheck (s.conditions.recheck ++ [{ span := sp, reason := reason }]))

/-- The give-back of R56. -/
theorem State.giveBack_returned (s : State) (c : SweepContext) (o : EngineOutcome) :
    let returned := o ≠ .preempted ∧ (c.reason = .confirm ∨ c.reason = .escalate)
    let reason : RecheckReason := if c.reason = .confirm then .confirm else .escalate c.cls
    (returned → s.giveBack c o = s.requestTail c.span reason) ∧ (¬returned → s.giveBack c o = s) := by
  unfold State.giveBack SweepContext.giveBackReason
  by_cases ho : o = .preempted
  · simp only [ho, ne_eq, not_true, false_and, false_implies, not_false_eq_true, true_implies, true_and, if_true]
    split <;> rfl
  · simp only [ne_eq, ho, not_false_eq_true, true_and, if_false]
    cases c.reason <;> simp

/-- A bank becomes FREE (R82, R87). -/
theorem State.freeBank_freed (s : State) (n : BankName) :
    (s.freeBank n).bank n = (s.bank n).released ∧ (s.freeBank n).bank (otherBank n) = s.bank (otherBank n) ∧
      (s.freeBank n).banks.retainSlot = s.banks.retainSlot ∧ (s.freeBank n).banks.ready = s.banks.ready ∧
      (s.freeBank n).banks.holdLimit = s.banks.holdLimit ∧
      NoticesGain s (s.freeBank n) (if (s.bank n).hold = .expired then [.holdExpired] else []) ∧
      (s.freeBank n).engine = { s.engine with state := (s.freeBank n).engine.state } := by
  have hn : otherBank n ≠ n := by cases n <;> decide
  unfold State.freeBank
  by_cases h : (s.bank n).hold = .expired
  · simp only [h, beq_self_eq_true, if_true]
    refine ⟨?_, ?_, ?_, ?_, ?_, ?_, ?_⟩
    · rw [show ∀ u : State, u.choose.bank n = u.bank n from fun u => by simp [State.bank]]
      exact State.bank_setBank _ _ _
    · rw [show ∀ u : State, u.choose.bank (otherBank n) = u.bank (otherBank n) from fun u => by simp [State.bank]]
      exact State.bank_setBank_ne _ hn _
    · simp
    · simp
    · simp
    · exact ((s.setBank n (s.bank n).freed).raise_gain .holdExpired).of_congr (by simp) (by simp) (by simp) (by simp)
    · rw [State.choose_engine]; simp
  · have h' : ((s.bank n).hold == .expired) = false := by simpa using h
    simp only [h, h', Bool.false_eq_true, if_false]
    refine ⟨?_, ?_, ?_, ?_, ?_, ?_, ?_⟩
    · rw [show ∀ u : State, u.choose.bank n = u.bank n from fun u => by simp [State.bank]]
      exact State.bank_setBank _ _ _
    · rw [show ∀ u : State, u.choose.bank (otherBank n) = u.bank (otherBank n) from fun u => by simp [State.bank]]
      exact State.bank_setBank_ne _ hn _
    · simp
    · simp
    · simp
    · exact NoticesGain.of_eq (by simp) (by simp)
    · rw [State.choose_engine]; simp

/-! ### The closing actions -/

theorem Reports.worked_backPressure (r : Reports) (l : List Record) (h : r.backPressure = true) :
    (r.worked l).backPressure = true := by
  simp [Reports.worked, h]

/-- The closing actions of a sweep (R55). -/
theorem State.closeSweep_closes (s : State) (n : BankName) (c : SweepContext) (o : EngineOutcome) :
    Closes s (s.closeSweep n c o) n c o := by
  obtain ⟨g1, g2⟩ := s.giveBack_returned c o
  obtain ⟨q1, q2, q3, q4⟩ := s.requestTail_asked c.span (if c.reason = .confirm then .confirm else .escalate c.cls)
  obtain ⟨a, ha⟩ : ∃ a, a = s.giveBack c o := ⟨_, rfl⟩
  obtain ⟨b, hb⟩ : ∃ b, b = a.freeBank n := ⟨_, rfl⟩
  obtain ⟨d, hd⟩ : ∃ d, d = b.putWork [.spanResult (b.engineResult c o)] := ⟨_, rfl⟩
  obtain ⟨f1, f2, f3, f4, f5, f6, f7⟩ := a.freeBank_freed n
  obtain ⟨w1, w2, w3, w4⟩ := State.putWork_worked (s := b) (l := [.spanResult (b.engineResult c o)]) (by simp) (by simp)
  obtain ⟨ends, e1, e2, e3, e4, e5⟩ := d.dropSweep.tellEnd_told c
  have hclose : s.closeSweep n c o = (d.dropSweep.tellEnd c).choose := by rw [hd, hb, ha]; rfl
  have hae : a.conditions.entries = s.conditions.entries := by
    by_cases h : o ≠ .preempted ∧ (c.reason = .confirm ∨ c.reason = .escalate)
    · rw [ha, g1 h]; exact q2
    · rw [ha, g2 h]
  have hres : b.engineResult c o = s.engineResult c o := by
    have h1 : b.condition c.span = s.condition c.span := by
      simp only [State.condition, hb, State.freeBank_frame, hae]
    have h2 : b.window.time = s.window.time := by simp [hb, ha]
    simp only [State.engineResult, h1, h2]
  rw [← hb] at f1 f2 f3 f4 f5 f6 f7
  rw [← hd, hres] at w1
  rw [← hd] at w2 w3 w4
  have hbank : ∀ m, a.bank m = s.bank m := fun m => by simp [State.bank, ha]
  have hdw : d.dropSweep.window = s.window := by simp [State.dropSweep, hd, hb, ha]
  have hdp : d.dropSweep.plan = s.plan := by simp [State.dropSweep, hd, hb, ha]
  have hdr : d.dropSweep.reports = s.reports.worked [.spanResult (s.engineResult c o)] := by
    have : b.reports = s.reports := by simp [hb, ha]
    rw [show d.dropSweep.reports = d.reports from rfl, w1, this]
  have hdb : d.banks = b.banks := by simp [hd]
  have hfb : ∀ m, (d.dropSweep.tellEnd c).choose.bank m = b.bank m := by
    intro m; simp [State.bank, State.dropSweep, hdb]
  have hde : d.dropSweep.engine =
      { s.engine with state := .idle, bank := none, outcome := none } := by
    have : a.engine = { s.engine with state := a.engine.state } := by
      by_cases h : o ≠ .preempted ∧ (c.reason = .confirm ∨ c.reason = .escalate)
      · rw [ha, g1 h]; exact State.requestTail_engine _ _ _
      · rw [ha, g2 h]
    simp only [State.dropSweep, State.withEngine_engine]
    rw [w3, f7, this]
  obtain ⟨full, full_yes, full_no, gain_a⟩ : ∃ full : List NoticeKind,
      ((o ≠ .preempted ∧ (c.reason = .confirm ∨ c.reason = .escalate)) ∧ s.QueueIsFull c.span →
        full = [.recheckFull]) ∧
      (¬((o ≠ .preempted ∧ (c.reason = .confirm ∨ c.reason = .escalate)) ∧ s.QueueIsFull c.span) → full = []) ∧
      NoticesGain s a full := by
    by_cases h : o ≠ .preempted ∧ (c.reason = .confirm ∨ c.reason = .escalate)
    · rw [ha, g1 h]
      by_cases hf : s.QueueIsFull c.span
      · exact ⟨[.recheckFull], fun _ => rfl, fun x => absurd ⟨h, hf⟩ x, q3 hf⟩
      · exact ⟨[], fun x => absurd x.2 hf, fun _ => rfl, q4 hf⟩
    · rw [ha, g2 h]
      exact ⟨[], fun x => absurd x.1 h, fun _ => rfl, NoticesGain.of_eq rfl id⟩
  rw [hbank] at f1 f2 f6
  rw [hdw, hdr] at e2
  rw [hdw] at e3 e4
  rw [hdp] at e1
  rw [hclose]
  refine ⟨ends, full, _, ?_, ?_, full_yes, full_no, rfl, ?_, ?_, ?_, ?_, ?_, ?_, ?_, ?_, ?_, ?_, ?_, ?_⟩
  · simpa using e1
  · simpa [State.engineResult] using e2
  · have hs : ∀ x : State, x.reports.backPressure = true → True := fun _ _ => trivial
    have m1 : s.reports.backPressure = true → a.reports.backPressure = true := by simp [ha]
    have m2 : a.reports.backPressure = true → b.reports.backPressure = true := by simp [hb]
    have m3 : b.reports.backPressure = true → d.reports.backPressure = true := by
      rw [w1, show b.reports = s.reports by simp [hb, ha]]
      exact Reports.worked_backPressure _ _
    have m4 : d.reports.backPressure = true → (d.dropSweep.tellEnd c).reports.backPressure = true := by
      intro h
      have h' : (s.reports.worked [.spanResult (s.engineResult c o)]).backPressure = true := by rw [← hdr]; exact h
      rcases e2 with e2 | e2 <;> rw [e2] <;> exact Reports.edgedAll_backPressure _ _ h'
    have g := ((gain_a.trans f6 m1 m2).trans w2 (fun h => m2 (m1 h)) m3).trans
      (e3.of_congr (s' := d) (t' := d.dropSweep.tellEnd c) rfl rfl rfl rfl) (fun h => m3 (m2 (m1 h))) m4
    exact (g.of_congr rfl rfl (by simp) (by simp)).congr fun k => by simp [List.append_assoc]
  · intro h
    simp [State.dropSweep, hd, hb, ha, g2 h]
  · intro h
    have : (d.dropSweep.tellEnd c).choose.conditions = a.conditions := by simp [State.dropSweep, hd, hb]
    rw [this, ha, g1 h]
    exact q1
  · have : (d.dropSweep.tellEnd c).choose.conditions = a.conditions := by simp [State.dropSweep, hd, hb]
    rw [this]
    exact hae
  · rw [hfb]; exact f1
  · rw [hfb]; exact f2
  · simp [State.dropSweep, hdb, f3, ha]
  · simp [State.dropSweep, hdb, f4, ha]
  · simp [State.dropSweep, hdb, f5, ha]
  · obtain ⟨_, k2⟩ := (d.dropSweep.tellEnd c).choose_chosen
    have hi : (d.dropSweep.tellEnd c).sweepInFlight = false := by simp [State.sweepInFlight, hde]
    rw [k2 hi, State.tellEnd_frame _ _ |>.1, hde]
  · simpa using e4
  · have hf : (d.dropSweep.tellEnd c).freeCount = s.freeCount + 1 := by
      rw [e5]; simp [State.dropSweep, hd, hb, ha]
    apply State.ext_fields
    case h13 => rw [State.choose_frame _ |>.2.2.2.2.2.2.2.2.2.2.2.1, hf]
    all_goals simp [State.dropSweep, hd, hb, ha]

/-- CLOSING_ACTIONS of an outcome decided with no shot outstanding (R53, R55). -/
theorem State.closingActions_closes {s : State} {n : BankName} {o : EngineOutcome} {c : SweepContext}
    (h1 : s.engine.state = .draining) (h2 : s.engine.bank = some n) (h3 : s.engine.outcome = some o)
    (h4 : s.context = some c) (h5 : s.port.outstanding = []) : Closes s s.closingActions n c o := by
  have : s.closingActions = s.closeSweep n c o := by simp [State.closingActions, h1, h2, h3, h4, h5]
  rw [this]
  exact s.closeSweep_closes n c o

/-! ### Replay -/

/-- The engine's choice makes no sweep draining. -/
theorem Chosen.not_draining {s t : State} (h : Chosen s t) (hs : s.engine.state ≠ .draining) :
    t.engine.state ≠ .draining := by
  cases hf : s.sweepInFlight with
  | true => rw [h.1 hf]; exact hs
  | false => rw [h.2 hf]; dsimp only; split <;> simp

theorem State.closingActions_other {s : State} (h : s.engine.state ≠ .draining ∨ s.port.outstanding ≠ []) :
    s.closingActions = s := by
  unfold State.closingActions
  split
  · rename_i h1 _ _ _
    rcases h with h | h
    · exact absurd h1 h
    · simp [h]
  · rfl

/-- A replayed minute boundary (R25, R27). -/
theorem State.replayBoundary_replayed (s : State) (x : TimeOfWeek) : Replayed s (s.replayBoundary x) x := by
  obtain ⟨now, hnow⟩ : ∃ now, now = s.setTime x := ⟨_, rfl⟩
  have hnow' : now = { s with window := { s.window with time := x } } := hnow
  have hw : now.window.state = s.window.state := by rw [hnow]; rfl
  have he : now.engine = s.engine := by rw [hnow]; rfl
  have hin : now.window.integrity = s.window.integrity := by rw [hnow]; rfl
  have hmo : now.window.mode = s.window.mode := by rw [hnow]; rfl
  have quiet : ∀ u : State, (s.engine.state ≠ .draining → u.engine.state ≠ .draining ∨ u.port.outstanding ≠ []) →
      s.closeDecided u = u := by
    intro u hu
    unfold State.closeDecided
    by_cases h : s.engine.state = .draining
    · simp [h]
    · simp [h, State.closingActions_other (hu h)]
  have hb : s.replayBoundary x = s.closeDecided (now.evaluateMatches .stepped) := by rw [hnow]; rfl
  unfold Replayed
  rw [hb, ← hnow']
  dsimp only
  rw [← hin, ← hmo, ← hw]
  by_cases heard : now.window.integrity = .valid ∧ now.window.mode = .schedule
  · have hv : now.evaluateMatches .stepped =
        if now.window.opens then now.openWindow .stepped
        else if now.window.closes then now.leaveOpen .stepped else now := by
      simp [State.evaluateMatches, heard.1, heard.2]
    rw [hv]
    cases ho : now.window.opens with
    | true =>
      simp only [if_true, Bool.true_eq_false, false_and, and_false, not_false_eq_true, true_implies, false_implies,
        and_true, true_and, heard]
      refine ⟨fun h => ?_, fun h => ?_⟩
      · have h' : now.window.state = .opened := by simpa using h
        rw [show now.openWindow .stepped = now by simp [State.openWindow, h']]
        exact quiet now fun h => .inl (by rw [he]; exact h)
      · have hO := State.openWindow_opens h .stepped
        rw [quiet _ fun hd => .inl (Chosen.not_draining hO.2.2.2.2.1 (by rw [he]; exact hd))]
        exact hO
    | false =>
      simp only [Bool.false_eq_true, if_false, false_and, and_false, not_false_eq_true, true_implies, false_implies,
        true_and, heard, and_true]
      cases hc : now.window.closes with
      | false =>
        simp only [Bool.false_eq_true, if_false, false_and, not_false_eq_true, true_implies, false_implies, and_true]
        exact quiet now fun h => .inl (by rw [he]; exact h)
      | true =>
        simp only [if_true, true_and]
        refine ⟨fun h => ?_, fun h => ?_⟩
        · rw [show now.leaveOpen .stepped = now by simp [State.leaveOpen, h]]
          exact quiet now fun h => .inl (by rw [he]; exact h)
        · have hL := State.leaveOpen_leaves h .stepped
          obtain ⟨u, hu⟩ : ∃ u, u = now.leaveOpen .stepped := ⟨_, rfl⟩
          rw [← hu] at hL ⊢
          refine ⟨u, hL, fun hq => ?_, fun n c h1 h2 h3 h4 h5 => ?_⟩
          · rcases hq with hq | hq | hq
            · simp [State.closeDecided, hq]
            · exact quiet u fun _ => .inl hq
            · exact quiet u fun _ => .inr hq
          · have ht : s.closeDecided u = u.closingActions := by simp [State.closeDecided, h1]
            rw [ht]
            refine State.closingActions_closes h2 h4 ?_ h5 h3
            by_cases hcut : now.CutNow
            · rw [(hL.2.2.2.2.2.1 hcut).1]; rfl
            · exact absurd h2 (Chosen.not_draining (hL.2.2.2.2.2.2.1 hcut).1 (by rw [he]; exact h1))
  · have hv : now.evaluateMatches .stepped = now := by
      unfold State.evaluateMatches
      rw [if_neg]
      simpa using heard
    rw [hv]
    have h1 : ∀ p : Prop, ((now.window.integrity = .valid ∧ now.window.mode = .schedule) ∧ p) = False := by
      intro p; simp [heard]
    simp only [h1, not_false_eq_true, true_implies, false_implies, and_true]
    exact quiet now fun h => .inl (by rw [he]; exact h)

end Sys2Proof.Machine
end

