-- ==== Sys2Proof/Laws/Analysis.lean ====
section
/-! SUPPORT. What the functions of the trace analyser compute: the end search, the zones with their starts, the expected
level, the gates with their landmarks, the scan. -/

namespace Sys2Proof.Machine

/-! ### The end search -/

theorem Trace.allLow_iff (t : Trace) (floor : Nat) : ∀ n b : Nat,
    t.allLow floor n b = true ↔ ∀ j, j < n → t.level (b + j) ≤ floor
  | 0, b => by simp [Trace.allLow]
  | n + 1, b => by
    simp only [Trace.allLow, Bool.and_eq_true, decide_eq_true_eq, Trace.allLow_iff t floor n]
    constructor
    · rintro ⟨h, h'⟩ j hj
      cases j with
      | zero => exact h
      | succ j => rw [show b + (j + 1) = b + 1 + j by omega]; exact h' j (by omega)
    · intro h
      refine ⟨h 0 (by omega), fun j hj => ?_⟩
      rw [show b + 1 + j = b + (j + 1) by omega]
      exact h (j + 1) (by omega)

/-- A run of P low bins from `b` on, within the trace (R120). -/
def Trace.LowRun (t : Trace) (p : Profile) (b : Nat) : Prop :=
  b + p.persistence ≤ t.bins ∧ ∀ j, j < p.persistence → t.level (b + j) ≤ p.floor

theorem Trace.lowRun_iff (t : Trace) (p : Profile) (b : Nat) :
    (decide (b + p.persistence ≤ t.bins) && t.allLow p.floor p.persistence b) = true ↔ t.LowRun p b := by
  simp [Trace.LowRun, Trace.allLow_iff]

theorem Trace.searchEnd_least (t : Trace) (p : Profile) : ∀ n b : Nat, b + n = t.bins →
    let m := t.searchEnd p.floor p.persistence n b
    b ≤ m ∧ m ≤ t.bins ∧ (m < t.bins → t.LowRun p m) ∧ ∀ x, b ≤ x → x < m → ¬t.LowRun p x
  | 0, b, h => by
    simp only [Trace.searchEnd]
    exact ⟨by omega, by omega, by omega, fun x hx hx' => by omega⟩
  | n + 1, b, h => by
    simp only [Trace.searchEnd]
    by_cases hl : t.LowRun p b
    · rw [if_pos ((t.lowRun_iff p b).mpr hl)]
      exact ⟨by omega, by omega, fun _ => hl, fun x hx hx' => by omega⟩
    · rw [if_neg (fun x => hl ((t.lowRun_iff p b).mp x))]
      obtain ⟨h1, h2, h3, h4⟩ := Trace.searchEnd_least t p n (b + 1) (by omega)
      refine ⟨by omega, h2, h3, fun x hx hx' => ?_⟩
      by_cases hb : x = b
      · rw [hb]; exact hl
      · exact h4 x (by omega) hx'

/-- The measured end is the least low run from the launch bin used on, else the bin count (R120). -/
theorem Trace.measuredEnd_least (t : Trace) (p : Profile) (launch : Nat) :
    (t.bins ≤ launch → t.measuredEnd p launch = t.bins) ∧
    (launch < t.bins → launch ≤ t.measuredEnd p launch ∧ t.measuredEnd p launch ≤ t.bins ∧
      (t.measuredEnd p launch < t.bins → t.LowRun p (t.measuredEnd p launch)) ∧
      ∀ b, launch ≤ b → b < t.measuredEnd p launch → ¬t.LowRun p b) := by
  refine ⟨fun h => ?_, fun h => ?_⟩
  · simp [Trace.measuredEnd, Nat.sub_eq_zero_of_le h, Trace.searchEnd]
  · exact t.searchEnd_least p (t.bins - launch) launch (by omega)

/-! ### Zones -/

theorem placeZones_get : ∀ (zones : List Zone) (start index k : Nat) (z : Zone), zones[k]? = some z →
    ∃ placed, (placeZones start index zones)[k]? = some placed ∧ placed.zone = z ∧ placed.index = index + k ∧
      (k = 0 → placed.start = start) ∧ ∀ y, 0 < k → zones[k - 1]? = some y → placed.start = y.endBin + 1
  | [], _, _, _, _, h => by simp at h
  | x :: rest, start, index, 0, z, h => by
    simp only [List.getElem?_cons_zero, Option.some.injEq] at h
    exact ⟨{ start := start, index := index, zone := x }, rfl, h, rfl, fun _ => rfl, fun _ h => by omega⟩
  | x :: rest, start, index, k + 1, z, h => by
    simp only [List.getElem?_cons_succ] at h
    obtain ⟨p, h1, h2, h3, h4, h5⟩ := placeZones_get rest (x.endBin + 1) (index + 1) k z h
    refine ⟨p, by simpa [placeZones] using h1, h2, by omega, fun h => by omega, fun y _ hy => ?_⟩
    cases k with
    | zero => simp only [Nat.add_sub_cancel, List.getElem?_cons_zero, Option.some.injEq] at hy; rw [← hy]; exact h4 rfl
    | succ k => exact h5 y (by omega) (by simpa using hy)

/-- Placed zones lie one after another, each with a bin (R97). -/
theorem placeZones_apart : ∀ (zones : List Zone) (start index : Nat),
    (∀ z ∈ zones.head?, start ≤ z.endBin) → (zones.map (·.endBin)).Pairwise (· < ·) →
      (placeZones start index zones).Pairwise (fun y z => y.zone.endBin < z.start) ∧
        ∀ z ∈ placeZones start index zones, start ≤ z.start ∧ z.start ≤ z.zone.endBin
  | [], _, _, _, _ => by simp [placeZones]
  | x :: rest, start, index, h, hp => by
    rw [List.map_cons, List.pairwise_cons] at hp
    have hx : start ≤ x.endBin := h x (by simp)
    obtain ⟨h1, h2⟩ := placeZones_apart rest (x.endBin + 1) (index + 1)
      (fun z hz => hp.1 z.endBin (List.mem_map_of_mem (List.mem_of_mem_head? hz))) hp.2
    simp only [placeZones, List.pairwise_cons, List.mem_cons]
    refine ⟨⟨fun z hz => ?_, h1⟩, ?_⟩
    · have := (h2 z hz).1; omega
    · rintro z (rfl | hz)
      · exact ⟨Nat.le_refl _, hx⟩
      · have := h2 z hz; omega

/-- The zone found at a bin is the placed zone that holds it. -/
theorem zoneAt_of_mem {zs : List PlacedZone} (hp : zs.Pairwise fun y z => y.zone.endBin < z.start) {z : PlacedZone}
    {x : Nat} (hz : z ∈ zs) (h1 : z.start ≤ x) (h2 : x ≤ z.zone.endBin) : zoneAt x zs = some z := by
  induction zs with
  | nil => simp at hz
  | cons y rest ih =>
    rw [List.pairwise_cons] at hp
    rcases List.mem_cons.mp hz with rfl | hz
    · simp [zoneAt, h1, h2]
    · have hy : y.zone.endBin < z.start := hp.1 z hz
      have : (decide (y.start ≤ x) && decide (x ≤ y.zone.endBin)) = false := by
        simp only [Bool.and_eq_false_iff, decide_eq_false_iff_not]; omega
      have hr := ih hp.2 hz
      unfold zoneAt at hr ⊢
      rw [List.find?_cons, this]
      exact hr

theorem Baseline.placed_apart {b : Baseline} (h : b.Rising) :
    b.placed.Pairwise (fun y z => y.zone.endBin < z.start) ∧
      ∀ z ∈ b.placed, b.launch ≤ z.start ∧ z.start ≤ z.zone.endBin := by
  unfold Baseline.Rising at h
  rw [List.pairwise_cons] at h
  exact placeZones_apart b.zones b.launch 1
    (fun z hz => Nat.le_of_lt (h.1 z.endBin (List.mem_map_of_mem (List.mem_of_mem_head? hz)))) h.2

/-- The expected level is the straight line, truncated toward zero (R123). -/
theorem PlacedZone.expected_line (z : PlacedZone) (x : Nat) (h : z.start ≤ x) :
    (z.zone.endBin = z.start → z.expected x = z.zone.startLevel) ∧
      (z.start < z.zone.endBin → z.zone.startLevel ≤ z.zone.endLevel → z.expected x =
        z.zone.startLevel + (z.zone.endLevel - z.zone.startLevel) * (x - z.start) / (z.zone.endBin - z.start)) ∧
      (z.start < z.zone.endBin → z.zone.endLevel ≤ z.zone.startLevel → z.expected x = (z.zone.startLevel : Int) -
        ((z.zone.startLevel - z.zone.endLevel) * (x - z.start) / (z.zone.endBin - z.start) : Nat)) := by
  unfold PlacedZone.expected
  refine ⟨fun he => by rw [if_pos he], fun h1 h2 => ?_, fun h1 h2 => ?_⟩
  · rw [if_neg (by omega)]
    rw [Int.tdiv_eq_ediv_of_nonneg]
    exact Int.mul_nonneg (by omega) (by omega)
  · rw [if_neg (by omega)]
    have : ((z.zone.endLevel : Int) - z.zone.startLevel) * ((x : Int) - z.start) =
        -(((z.zone.startLevel - z.zone.endLevel) * (x - z.start) : Nat) : Int) := by
      push_cast [Nat.cast_sub h2, Nat.cast_sub h]
      ring
    rw [this, Int.neg_tdiv, ← Int.ofNat_sub (by omega), ← Int.ofNat_tdiv]
    rfl

/-! ### Gates -/

/-- A bin lies in a gate. -/
def LandmarkGate.Holds (g : LandmarkGate) (x : Nat) : Prop :=
  g.first ≤ x ∧ x ≤ g.last

/-- Gates in order of their first bins, each with its tested landmark inside. -/
def GatesInOrder (l : List LandmarkGate) : Prop :=
  l.Pairwise (fun x y => x.first ≤ y.first) ∧ ∀ g ∈ l, ∀ x, g.tested = some x → g.Holds x.1

theorem GatesInOrder.tail {g : LandmarkGate} {l : List LandmarkGate} (h : GatesInOrder (g :: l)) : GatesInOrder l :=
  ⟨(List.pairwise_cons.mp h.1).2, fun x hx => h.2 x (List.mem_cons_of_mem _ hx)⟩

theorem LandmarkGate.join_holds {x y : LandmarkGate} (h : x.first ≤ y.first) (hj : y.first ≤ x.last + 1) (b : Nat) :
    (x.join y).Holds b ↔ x.Holds b ∨ y.Holds b := by
  simp only [LandmarkGate.Holds, LandmarkGate.join]
  omega

theorem GatesInOrder.join {x y : LandmarkGate} {l : List LandmarkGate} (h : GatesInOrder (x :: y :: l)) :
    GatesInOrder (x.join y :: l) := by
  have h1 := List.pairwise_cons.mp h.1
  have h2 := List.pairwise_cons.mp h1.2
  have hxy := h1.1 y (by simp)
  refine ⟨List.pairwise_cons.mpr ⟨fun g hg => ?_, h2.2⟩, fun g hg t ht => ?_⟩
  · have := h2.1 g hg
    simp only [LandmarkGate.join]; omega
  · rcases List.mem_cons.mp hg with rfl | hg
    · simp only [LandmarkGate.join] at ht ⊢
      cases hx : x.tested with
      | some w =>
        rw [hx] at ht
        have := h.2 x (by simp) t (hx.trans ht)
        simp only [LandmarkGate.Holds] at this ⊢; omega
      | none =>
        rw [hx] at ht
        have := h.2 y (by simp) t ht
        simp only [LandmarkGate.Holds] at this ⊢; omega
    · exact h.2 g (by simp [hg]) t ht

/-- The landmark of a member that a gate holds. -/
def testedIn (g m : LandmarkGate) : Option (Nat × Nat) :=
  m.tested.filter fun w => decide (g.first ≤ w.1 ∧ w.1 ≤ g.last)

/-- What joining makes of gates in order (R125): the same bins, in gates apart from one another, each member whole in one
of them, and each with the first landmark of its members that is tested (R126). -/
theorem joinFrom_joins : ∀ (ys : List LandmarkGate) (x : LandmarkGate), GatesInOrder (x :: ys) →
    (∀ b, (∃ g ∈ joinFrom x ys, g.Holds b) ↔ ∃ g ∈ x :: ys, g.Holds b) ∧
    (joinFrom x ys).Pairwise (fun g h => g.last + 1 < h.first) ∧ (∀ g ∈ joinFrom x ys, x.first ≤ g.first) ∧
    (∀ g ∈ joinFrom x ys, ∀ m ∈ x :: ys, (g.first ≤ m.first ∧ m.last ≤ g.last) ∨ ∀ b, m.Holds b → ¬g.Holds b) ∧
    ∀ g ∈ joinFrom x ys, g.tested = (x :: ys).findSome? (testedIn g)
  | [], x, h => by
    refine ⟨fun b => by simp [joinFrom], by simp [joinFrom], by simp [joinFrom], ?_, ?_⟩
    · intro g hg m hm
      simp only [joinFrom, List.mem_singleton] at hg hm
      rw [hg, hm]
      exact .inl ⟨Nat.le_refl _, Nat.le_refl _⟩
    · intro g hg
      simp only [joinFrom, List.mem_singleton] at hg
      subst hg
      cases ht : g.tested with
      | none => simp [testedIn, ht]
      | some w =>
        have := h.2 g (by simp) w ht
        simp only [LandmarkGate.Holds] at this
        simp [testedIn, ht, Option.filter, this]
  | y :: ys, x, h => by
    have h1 := List.pairwise_cons.mp h.1
    have hxy := h1.1 y (by simp)
    by_cases hj : y.first ≤ x.last + 1
    · obtain ⟨i1, i2, i3, i4, i5⟩ := joinFrom_joins ys (x.join y) h.join
      have he : joinFrom x (y :: ys) = joinFrom (x.join y) ys := by simp [joinFrom, hj]
      rw [he]
      refine ⟨fun b => ?_, i2, fun g hg => ?_, fun g hg m hm => ?_, fun g hg => ?_⟩
      · rw [i1 b]
        simp only [List.mem_cons, exists_eq_or_imp, LandmarkGate.join_holds hxy hj b, or_assoc]
      · have := i3 g hg
        simp only [LandmarkGate.join] at this; omega
      · have hjoin := i4 g hg (x.join y) (by simp)
        rcases List.mem_cons.mp hm with hmx | hm
        · rw [hmx]
          rcases hjoin with ⟨a, b⟩ | a
          · simp only [LandmarkGate.join] at a b; exact .inl (by omega)
          · exact .inr fun b hb => a b ((LandmarkGate.join_holds hxy hj b).mpr (.inl hb))
        · rcases List.mem_cons.mp hm with hmy | hm
          · rw [hmy]
            rcases hjoin with ⟨a, b⟩ | a
            · simp only [LandmarkGate.join] at a b; exact .inl (by omega)
            · exact .inr fun b hb => a b ((LandmarkGate.join_holds hxy hj b).mpr (.inr hb))
          · exact i4 g hg m (by simp [hm])
      · rw [i5 g hg]
        have hin : ∀ w, (x.tested = some w ∨ y.tested = some w) → (x.join y).Holds w.1 := by
          rintro w (hw | hw)
          · exact (LandmarkGate.join_holds hxy hj _).mpr (.inl (h.2 x (by simp) w hw))
          · exact (LandmarkGate.join_holds hxy hj _).mpr (.inr (h.2 y (by simp) w hw))
        have hmem : (g.first ≤ (x.join y).first ∧ (x.join y).last ≤ g.last) ∨
            ∀ b, (x.join y).Holds b → ¬g.Holds b := i4 g hg _ (by simp)
        have key : testedIn g (x.join y) = (testedIn g x).or (testedIn g y) := by
          have hg' : ∀ w, (x.tested = some w ∨ y.tested = some w) →
              ((g.first ≤ w.1 ∧ w.1 ≤ g.last) ↔ (g.first ≤ (x.join y).first ∧ (x.join y).last ≤ g.last)) := by
            intro w hw
            have hq := hin w hw
            constructor
            · intro hb
              rcases hmem with hm | hm
              · exact hm
              · exact absurd hb (hm w.1 hq)
            · intro hb
              simp only [LandmarkGate.Holds] at hq
              omega
          cases hx : x.tested with
          | some w =>
            have hjt : (x.join y).tested = some w := by simp [LandmarkGate.join, hx]
            by_cases hb : g.first ≤ w.1 ∧ w.1 ≤ g.last
            · simp [testedIn, hjt, hx, Option.filter, hb]
            · cases hy : y.tested with
              | none => simp [testedIn, hjt, hx, hy, Option.filter, hb]
              | some w' =>
                have : ¬(g.first ≤ w'.1 ∧ w'.1 ≤ g.last) := fun h' =>
                  hb ((hg' w (.inl hx)).mpr ((hg' w' (.inr hy)).mp h'))
                simp [testedIn, hjt, hx, hy, Option.filter, hb, this]
          | none =>
            have hjt : (x.join y).tested = y.tested := by simp [LandmarkGate.join, hx]
            simp [testedIn, hjt, hx]
        simp only [List.findSome?_cons, key]
        cases testedIn g x <;> simp
    · have he : joinFrom x (y :: ys) = x :: joinFrom y ys := by simp [joinFrom, hj]
      obtain ⟨i1, i2, i3, i4, i5⟩ := joinFrom_joins ys y h.tail
      rw [he]
      refine ⟨fun b => ?_, ?_, fun g hg => ?_, fun g hg m hm => ?_, fun g hg => ?_⟩
      · simp only [List.mem_cons, exists_eq_or_imp]
        have := i1 b
        simp only [List.mem_cons, exists_eq_or_imp] at this
        rw [this]
      · refine List.pairwise_cons.mpr ⟨fun g hg => ?_, i2⟩
        have := i3 g hg; omega
      · rcases List.mem_cons.mp hg with rfl | hg
        · exact Nat.le_refl _
        · have := i3 g hg; omega
      · rcases List.mem_cons.mp hg with rfl | hg
        · rcases List.mem_cons.mp hm with rfl | hm
          · exact .inl ⟨Nat.le_refl _, Nat.le_refl _⟩
          · right
            intro b hb hg
            have hf : y.first ≤ m.first := by
              rcases List.mem_cons.mp hm with rfl | hm
              · exact Nat.le_refl _
              · exact (List.pairwise_cons.mp h1.2).1 m hm
            simp only [LandmarkGate.Holds] at hb hg
            omega
        · rcases List.mem_cons.mp hm with hmx | hm
          · rw [hmx]
            right
            intro b hb hg'
            have := i3 g hg
            simp only [LandmarkGate.Holds] at hb hg'
            omega
          · exact i4 g hg m hm
      · rcases List.mem_cons.mp hg with rfl | hg
        · have hrest : (y :: ys).findSome? (testedIn g) = none := by
            rw [List.findSome?_eq_none_iff]
            intro m hm
            have hf : y.first ≤ m.first := by
              rcases List.mem_cons.mp hm with rfl | hm
              · exact Nat.le_refl _
              · exact (List.pairwise_cons.mp h1.2).1 m hm
            cases ht : m.tested with
            | none => simp [testedIn, ht]
            | some w =>
              have hw := h.2 m (List.mem_cons_of_mem _ hm) w ht
              simp only [LandmarkGate.Holds] at hw
              have : ¬(g.first ≤ w.1 ∧ w.1 ≤ g.last) := by omega
              simp [testedIn, ht, Option.filter, this]
          rw [List.findSome?_cons, hrest]
          cases ht : g.tested with
          | none => simp [testedIn, ht]
          | some w =>
            have hw := h.2 g (by simp) w ht
            simp only [LandmarkGate.Holds] at hw
            simp [testedIn, ht, Option.filter, hw]
        · have hx : testedIn g x = none := by
            cases ht : x.tested with
            | none => simp [testedIn, ht]
            | some w =>
              have hw := h.2 x (by simp) w ht
              have := i3 g hg
              simp only [LandmarkGate.Holds] at hw
              have : ¬(g.first ≤ w.1 ∧ w.1 ≤ g.last) := by omega
              simp [testedIn, ht, Option.filter, this]
          rw [i5 g hg, List.findSome?_cons (a := x), hx]

/-- The gate of a landmark, clipped: its bins of the scan range (R125). -/
theorem gateOf_some {p : Profile} {lo hi : Nat} {z : PlacedZone} {g : LandmarkGate} (h : gateOf p lo hi z = some g) :
    (∀ x, g.Holds x ↔ lo ≤ x ∧ x ≤ hi ∧ z.zone.endBin ≤ x + p.tolerance ∧ x ≤ z.zone.endBin + z.zone.reach p) ∧
      g.first = max lo (z.zone.endBin - p.tolerance) ∧
      g.tested = if lo ≤ z.zone.endBin ∧ z.zone.endBin ≤ hi then some (z.zone.endBin, z.index) else none := by
  unfold gateOf at h
  dsimp only at h
  split at h
  · cases h
    refine ⟨fun x => ?_, rfl, rfl⟩
    simp only [LandmarkGate.Holds]
    omega
  · cases h

theorem gateOf_none {p : Profile} {lo hi : Nat} {z : PlacedZone} (h : gateOf p lo hi z = none) (x : Nat) :
    ¬(lo ≤ x ∧ x ≤ hi ∧ z.zone.endBin ≤ x + p.tolerance ∧ x ≤ z.zone.endBin + z.zone.reach p) := by
  unfold gateOf at h
  dsimp only at h
  split at h
  · cases h
  · omega

theorem Zone.reach_ge (z : Zone) (p : Profile) : p.tolerance ≤ z.reach p := by
  unfold Zone.reach
  split <;> omega

/-- The single gates of rising zones come in order. -/
theorem gates_inOrder {p : Profile} {lo hi : Nat} {zs : List PlacedZone}
    (h : zs.Pairwise fun y z => y.zone.endBin < z.zone.endBin) : GatesInOrder (zs.filterMap (gateOf p lo hi)) := by
  refine ⟨?_, ?_⟩
  · rw [List.pairwise_filterMap]
    refine h.imp fun {y z} hyz g hg g' hg' => ?_
    rw [(gateOf_some hg).2.1, (gateOf_some hg').2.1]
    omega
  · intro g hg x hx
    obtain ⟨z, _, hz⟩ := List.mem_filterMap.mp hg
    obtain ⟨h1, _, h3⟩ := gateOf_some hz
    rw [h3] at hx
    split at hx
    · rename_i hr
      cases hx
      have := z.zone.reach_ge p
      exact (h1 z.zone.endBin).mpr ⟨hr.1, hr.2, by omega, by omega⟩
    · cases hx

theorem joinGates_joins {l : List LandmarkGate} (h : GatesInOrder l) :
    (∀ b, (∃ g ∈ joinGates l, g.Holds b) ↔ ∃ g ∈ l, g.Holds b) ∧
    (joinGates l).Pairwise (fun g h => g.last + 1 < h.first) ∧
    ∀ g ∈ joinGates l, g.tested = l.findSome? (testedIn g) := by
  cases l with
  | nil => simp [joinGates]
  | cons x ys =>
    obtain ⟨h1, h2, _, _, h5⟩ := joinFrom_joins ys x h
    exact ⟨h1, h2, h5⟩

/-- The gate found at a bin, of gates apart from one another. -/
theorem gateAt_of_apart {l : List LandmarkGate} (h : l.Pairwise fun g h => g.last + 1 < h.first) (x : Nat) :
    (gateAt l x = none → ∀ g ∈ l, ¬g.Holds x) ∧
    ∀ g, gateAt l x = some g → g ∈ l ∧ g.Holds x ∧ (∀ g' ∈ l, ¬g'.Holds (g.last + 1)) ∧
      (0 < g.first → ∀ g' ∈ l, ¬g'.Holds (g.first - 1)) := by
  unfold gateAt
  refine ⟨fun hn g hg => ?_, fun g hg => ?_⟩
  · have := List.find?_eq_none.mp hn g hg
    simpa [LandmarkGate.Holds] using this
  · have hm := List.mem_of_find?_eq_some hg
    have hh : g.Holds x := by
      have := List.find?_some hg
      simpa [LandmarkGate.Holds] using this
    have apart : ∀ g' ∈ l, g' = g ∨ g.last + 1 < g'.first ∨ g'.last + 1 < g.first := by
      intro g' hg'
      clear hg hh
      induction l with
      | nil => simp at hm
      | cons y rest ih =>
        rw [List.pairwise_cons] at h
        rcases List.mem_cons.mp hm with hy | hm
        · rcases List.mem_cons.mp hg' with hy' | hg'
          · exact .inl (hy'.trans hy.symm)
          · rw [hy]; exact .inr (.inl (h.1 g' hg'))
        · rcases List.mem_cons.mp hg' with hy' | hg'
          · rw [hy']; exact .inr (.inr (h.1 g hm))
          · exact ih h.2 hm hg'
    refine ⟨hm, hh, fun g' hg' hb => ?_, fun hp g' hg' hb => ?_⟩
    · simp only [LandmarkGate.Holds] at hb hh
      rcases apart g' hg' with rfl | ha | ha <;> omega
    · simp only [LandmarkGate.Holds] at hb hh
      rcases apart g' hg' with rfl | ha | ha <;> omega

theorem placeZones_dropLast : ∀ (zones : List Zone) (start index : Nat),
    (placeZones start index zones).dropLast = placeZones start index zones.dropLast
  | [], _, _ => rfl
  | [_], _, _ => rfl
  | x :: y :: rest, start, index => by
    have ih := placeZones_dropLast (y :: rest) (x.endBin + 1) (index + 1)
    simp only [placeZones, List.dropLast_cons_cons] at ih ⊢
    rw [ih]

theorem placeZones_landmarks : ∀ (zones : List Zone) (start index : Nat),
    (placeZones start index zones).map (fun z => (z.zone.endBin, z.index, decide (z.zone.kind = .connector))) =
      (zones.zipIdx index).map fun z => (z.1.endBin, z.2, decide (z.1.kind = .connector))
  | [], _, _ => rfl
  | x :: rest, start, index => by
    simp only [placeZones, List.map_cons, List.zipIdx_cons, placeZones_landmarks rest]

/-- The landmarks are the end bins of the placed zones but the last (R97). -/
theorem Baseline.placed_landmarks (b : Baseline) :
    b.placed.dropLast.map (fun z => (z.zone.endBin, z.index, decide (z.zone.kind = .connector))) = b.landmarks := by
  rw [Baseline.placed, placeZones_dropLast, placeZones_landmarks]
  rfl

theorem gated_iff (b : Baseline) (p : Profile) (lo hi x : Nat) :
    Gated b p lo hi x ↔ ∃ g ∈ b.placed.dropLast.filterMap (gateOf p lo hi), g.Holds x := by
  have reach : ∀ z : PlacedZone, z.zone.endBin + z.zone.reach p = z.zone.endBin + p.tolerance +
      (if decide (z.zone.kind = .connector) = true then p.blind else 0) := by
    intro z
    unfold Zone.reach
    by_cases h : z.zone.kind = .connector <;> simp [h, Nat.add_assoc]
  unfold Gated
  rw [← b.placed_landmarks]
  constructor
  · rintro ⟨h1, h2, l, hl, h3, h4⟩
    obtain ⟨z, hz, rfl⟩ := List.mem_map.mp hl
    simp only at h3 h4
    rw [← reach z] at h4
    cases hg : gateOf p lo hi z with
    | none => exact absurd ⟨h1, h2, h3, h4⟩ (gateOf_none hg x)
    | some g => exact ⟨g, List.mem_filterMap.mpr ⟨z, hz, hg⟩, ((gateOf_some hg).1 x).mpr ⟨h1, h2, h3, h4⟩⟩
  · rintro ⟨g, hg, hx⟩
    obtain ⟨z, hz, hg⟩ := List.mem_filterMap.mp hg
    obtain ⟨h1, h2, h3, h4⟩ := ((gateOf_some hg).1 x).mp hx
    refine ⟨h1, h2, _, List.mem_map_of_mem hz, h3, ?_⟩
    simp only
    rw [← reach z]
    exact h4

/-- The tested landmark of a gate within the range is the first landmark it holds. -/
theorem findSome_testedIn {p : Profile} {lo hi : Nat} {g : LandmarkGate} (h1 : lo ≤ g.first) (h2 : g.last ≤ hi) :
    ∀ zs : List PlacedZone, (zs.filterMap (gateOf p lo hi)).findSome? (testedIn g) =
      ((zs.map fun z => (z.zone.endBin, z.index, decide (z.zone.kind = .connector))).find? fun l =>
        decide (g.first ≤ l.1 ∧ l.1 ≤ g.last)).map fun l => (l.1, l.2.1)
  | [] => rfl
  | z :: rest => by
    have ih := findSome_testedIn (p := p) h1 h2 rest
    rw [List.map_cons, List.find?_cons]
    by_cases hz : g.first ≤ z.zone.endBin ∧ z.zone.endBin ≤ g.last
    · cases hg : gateOf p lo hi z with
      | none =>
        exact absurd ⟨by omega, by omega, by omega, by omega⟩ (gateOf_none hg z.zone.endBin)
      | some m =>
        have ht := (gateOf_some hg).2.2
        rw [if_pos (by omega)] at ht
        simp [hg, testedIn, ht, Option.filter, hz]
    · have hr : ∀ m, gateOf p lo hi z = some m → testedIn g m = none := by
        intro m hg
        have ht := (gateOf_some hg).2.2
        split at ht <;> simp [testedIn, ht, Option.filter, hz]
      have hf : (List.filterMap (gateOf p lo hi) (z :: rest)).findSome? (testedIn g) =
          (List.filterMap (gateOf p lo hi) rest).findSome? (testedIn g) := by
        cases hg : gateOf p lo hi z with
        | none => simp [hg]
        | some m => simp [hg, hr m hg]
      rw [hf, ih]
      simp [hz]

theorem Baseline.placed_rising {b : Baseline} (h : b.Rising) :
    b.placed.dropLast.Pairwise fun y z => y.zone.endBin < z.zone.endBin := by
  obtain ⟨h1, h2⟩ := Baseline.placed_apart h
  refine List.Pairwise.sublist (List.dropLast_sublist _) (h1.imp_of_mem fun {y z} _ hz hyz => ?_)
  have := (h2 z hz).2
  omega

/-- The gates of a baseline (R125, R126). -/
theorem gateAt_gated {b : Baseline} {p : Profile} {lo hi x : Nat} (h : b.Rising) :
    (gateAt (gatesFor p lo hi b.placed) x = none → ¬Gated b p lo hi x) ∧
    ∀ g, gateAt (gatesFor p lo hi b.placed) x = some g →
      g.first ≤ x ∧ x ≤ g.last ∧ (∀ y, g.first ≤ y → y ≤ g.last → Gated b p lo hi y) ∧
      ¬Gated b p lo hi (g.last + 1) ∧ (0 < g.first → ¬Gated b p lo hi (g.first - 1)) ∧
      g.tested = ((b.landmarks.find? fun l => decide (g.first ≤ l.1 ∧ l.1 ≤ g.last)).map fun l => (l.1, l.2.1)) := by
  have ho := gates_inOrder (p := p) (lo := lo) (hi := hi) (Baseline.placed_rising h)
  obtain ⟨j1, j2, j3⟩ := joinGates_joins ho
  have hG : ∀ y, Gated b p lo hi y ↔ ∃ g ∈ gatesFor p lo hi b.placed, g.Holds y := fun y => by
    rw [gated_iff, ← j1 y]; rfl
  obtain ⟨a1, a2⟩ := gateAt_of_apart j2 x
  refine ⟨fun hn hg => ?_, fun g hg => ?_⟩
  · obtain ⟨g, hm, hx⟩ := (hG x).mp hg
    exact a1 hn g hm hx
  · obtain ⟨hm, hx, hl, hf⟩ := a2 g hg
    have hall : ∀ y, g.first ≤ y → y ≤ g.last → Gated b p lo hi y := fun y h1 h2 => (hG y).mpr ⟨g, hm, h1, h2⟩
    refine ⟨hx.1, hx.2, hall, fun hq => ?_, fun hp hq => ?_, ?_⟩
    · obtain ⟨g', hm', hx'⟩ := (hG _).mp hq
      exact hl g' hm' hx'
    · obtain ⟨g', hm', hx'⟩ := (hG _).mp hq
      exact hf hp g' hm' hx'
    · rw [j3 g hm, ← b.placed_landmarks]
      have hb : g.first ≤ g.last := Nat.le_trans hx.1 hx.2
      exact findSome_testedIn (hall _ (Nat.le_refl _) hb).1 (hall _ hb (Nat.le_refl _)).2.1 _

/-! ### The scan -/

theorem ScanView.rises_iff (v : ScanView) (r : Int) : ∀ n b : Nat, v.rises r n b = true ↔
    (n = 0 ∨ b + n ≤ v.last + 1) ∧
      ∀ j, j < n → gateAt v.gates (b + j) = none ∧ (v.profile.bend : Int) ≤ v.dev (b + j) - r
  | 0, b => by simp [ScanView.rises]
  | n + 1, b => by
    simp only [ScanView.rises, Bool.and_eq_true, decide_eq_true_eq, Option.isNone_iff_eq_none, v.rises_iff r n]
    constructor
    · rintro ⟨⟨⟨h1, h2⟩, h3⟩, h4, h5⟩
      refine ⟨.inr (by omega), fun j hj => ?_⟩
      cases j with
      | zero => exact ⟨h2, h3⟩
      | succ j => rw [show b + (j + 1) = b + 1 + j by omega]; exact h5 j (by omega)
    · rintro ⟨h1, h2⟩
      refine ⟨⟨⟨by omega, (h2 0 (by omega)).1⟩, (h2 0 (by omega)).2⟩, by omega, fun j hj => ?_⟩
      rw [show b + 1 + j = b + (j + 1) by omega]
      exact h2 (j + 1) (by omega)

/-- The scan makes the findings of R124, with enough bins to visit. -/
theorem ScanView.scan_scans (v : ScanView) (hp : 1 ≤ v.profile.persistence) : ∀ (n b : Nat) (r : Int),
    v.last + 1 ≤ n + b → Scans v.dev (gateAt v.gates) v.last v.profile b r (v.scan n b r)
  | 0, b, r, h => .done (by omega)
  | n + 1, b, r, h => by
    unfold ScanView.scan
    by_cases hb : v.last < b
    · rw [if_pos hb]; exact .done hb
    · rw [if_neg hb]
      cases hg : gateAt v.gates b with
      | some g =>
        dsimp only
        by_cases hl : b < g.last
        · rw [if_pos hl]
          exact .inGate (by omega) hg hl (v.scan_scans hp n (b + 1) r (by omega))
        · rw [if_neg hl]
          have rest := v.scan_scans hp n (b + 1) (v.dev b) (by omega)
          unfold ScanView.grownTest
          cases ht : g.tested with
          | none => exact .gateEnd (by omega) hg (by omega) (.inl ht) rest
          | some w =>
            obtain ⟨l, index⟩ := w
            dsimp only
            by_cases hd : (v.profile.grown : Int) ≤ v.dev b - r
            · rw [if_pos hd]
              exact .grown (by omega) hg (by omega) ht hd rest
            · rw [if_neg hd]
              exact .gateEnd (by omega) hg (by omega) (.inr (by omega)) rest
      | none =>
        dsimp only
        by_cases hr : v.rises r v.profile.persistence b = true
        · rw [if_pos hr]
          obtain ⟨h1, h2⟩ := (v.rises_iff r _ b).mp hr
          exact .bend (by omega) hg (by omega) h2 (v.scan_scans hp n _ _ (by omega))
        · rw [if_neg hr]
          refine .level (by omega) hg (fun h' => hr ((v.rises_iff r _ b).mpr ⟨.inr h'.1, h'.2⟩))
            (v.scan_scans hp n (b + 1) _ (by omega))

/-- The findings of the scan (R124). -/
theorem Trace.scanFindings_scans (t : Trace) (p : Profile) (b : Baseline) (m : Nat) :
    (min m b.endBin ≤ b.launch → t.scanFindings p b m = []) ∧
    (b.launch < min m b.endBin → 1 ≤ p.persistence →
      Scans (t.deviation b.placed) (gateAt (gatesFor p b.launch (min m b.endBin - 1) b.placed)) (min m b.endBin - 1) p
        b.launch (t.deviation b.placed b.launch) (t.scanFindings p b m)) := by
  refine ⟨fun h => if_pos h, fun h hp => ?_⟩
  let v : ScanView :=
    { trace := t, zones := b.placed, gates := gatesFor p b.launch (min m b.endBin - 1) b.placed,
      last := min m b.endBin - 1, profile := p }
  have he : t.scanFindings p b m = v.scan (min m b.endBin - b.launch) b.launch (v.dev b.launch) := if_neg (by omega)
  rw [he]
  exact v.scan_scans hp _ _ _ (by simp only [v]; omega)

/-! ### The analysis -/

/-- The outcome and the lists of an analysis (R121, R122, R129, R130). -/
theorem AnalysisRecord.analyse_concludes (r : AnalysisRecord) (t : Trace) :
    (r.mode = .endOnly ∨ r.snapshot.record = none → r.analyse t = (.endOnly, .empty, none)) ∧
    ∀ b, r.mode ≠ .endOnly → r.snapshot.record = some b → r.analyse t =
      r.conclude (r.scanned t b (t.measuredEnd r.profile r.launchUsed)) (t.measuredEnd r.profile r.launchUsed)
        (t.breakTest r.profile r.launchUsed b.endBin (t.measuredEnd r.profile r.launchUsed)) := by
  unfold AnalysisRecord.analyse
  refine ⟨fun h => ?_, fun b hm hb => ?_⟩
  · rcases h with h | h
    · simp [h]
    · cases r.mode <;> simp [h]
  · cases hm' : r.mode with
    | endOnly => exact absurd hm' hm
    | endTest => simp [hb]
    | full => simp [hb]

end Sys2Proof.Machine
end

