-- ==== Sys2Proof/Laws/PerInstr.lean ====
section
/-! SUPPORT. A law of every command as syntax: the payload of a well-formed shelf command fits a frame (R166, R167) and
names a command (R169). One lemma per constructor. -/

namespace Sys2Proof

theorem stagePairBytes_length (l : List (Byte × Word)) : (stagePairBytes l).length = 5 * l.length := by
  induction l with
  | nil => rfl
  | cons p l ih => simp [stagePairBytes, wordBytes, ih]; omega

theorem settingPairBytes_length (l : List (Byte × Half)) : (settingPairBytes l).length = 3 * l.length := by
  induction l with
  | nil => rfl
  | cons p l ih => simp [settingPairBytes, halfBytes, ih]; omega

theorem maskPairBytes_length (l : List (Byte × Byte)) : (maskPairBytes l).length = 2 * l.length := by
  induction l with
  | nil => rfl
  | cons p l ih => simp [maskPairBytes, ih]; omega

theorem zoneBytes_length (l : List ZoneWords) : (zoneBytes l).length = 7 * l.length := by
  induction l with
  | nil => rfl
  | cons p l ih => simp [zoneBytes, halfBytes, ih]; omega

/-- The code of every command names a command. -/
theorem CommandName.code_named (n : CommandName) (rest : List Byte) : namesNoCommand (n.code :: rest) = false := by
  cases n <;> rfl

namespace Laws.PayloadFits

/-- The payload of the command, if it is a shelf command, is at most 1024 bytes long and names a command. -/
def Statement (i : Instr) : Prop :=
  ∀ tag c, i.asLink = some (tag, c) → i.wellFormed = true →
    (encodePayload c).length ≤ 1024 ∧ namesNoCommand (encodePayload c) = false

/-- A row that is no shelf command carries no payload of one. -/
theorem of_none {i : Instr} (h : i.asLink = none) : Statement i := by
  intro tag c hc
  rw [h] at hc
  exact absurd hc (by simp)

/-- A shelf command whose well-formedness bounds its field bytes. -/
theorem of_length {i : Instr} {tag : Byte} {c : LinkCommand} (hi : i.asLink = some (tag, c))
    (h : i.wellFormed = true → c.fieldBytes.length ≤ 1023) : Statement i := by
  intro tag' c' hc hw
  rw [hi] at hc
  obtain ⟨rfl, rfl⟩ := Prod.mk.inj (Option.some.inj hc)
  have := h hw
  exact ⟨by simp only [encodePayload, List.length_cons]; omega, CommandName.code_named _ _⟩

theorem planWrite : ∀ x0 x1 x2 x3 x4, Statement (.planWrite x0 x1 x2 x3 x4) := fun _ _ _ _ _ =>
  of_length rfl fun _ => by simp [LinkCommand.fieldBytes]

theorem planRead : ∀ x0 x1, Statement (.planRead x0 x1) := fun _ _ =>
  of_length rfl fun _ => by simp [LinkCommand.fieldBytes]

theorem planSeek : ∀ x0 x1, Statement (.planSeek x0 x1) := fun _ _ =>
  of_length rfl fun _ => by simp [LinkCommand.fieldBytes]

theorem groupStage : ∀ x0 x1 x2, Statement (.groupStage x0 x1 x2) := fun _ _ _ => of_length rfl fun h => by
  simp only [Instr.wellFormed, decide_eq_true_eq] at h
  simp [LinkCommand.fieldBytes, stagePairBytes_length]; omega

theorem groupCommit : ∀ x0 x1, Statement (.groupCommit x0 x1) := fun _ _ => of_length rfl fun h => by
  simp only [Instr.wellFormed, decide_eq_true_eq] at h
  simp [LinkCommand.fieldBytes]; omega

theorem groupRead : ∀ x0 x1, Statement (.groupRead x0 x1) := fun _ _ =>
  of_length rfl fun _ => by simp [LinkCommand.fieldBytes]

theorem clockSet : ∀ x0 x1 x2 x3 x4, Statement (.clockSet x0 x1 x2 x3 x4) := fun _ _ _ _ _ =>
  of_length rfl fun _ => by simp [LinkCommand.fieldBytes]

theorem clockStep : ∀ x0 x1, Statement (.clockStep x0 x1) := fun _ _ =>
  of_length rfl fun _ => by simp [LinkCommand.fieldBytes, halfBytes]

theorem clockRead : ∀ x0, Statement (.clockRead x0) := fun _ =>
  of_length rfl fun _ => by simp [LinkCommand.fieldBytes]

theorem windowSet : ∀ x0 x1 x2 x3 x4 x5, Statement (.windowSet x0 x1 x2 x3 x4 x5) := fun _ _ _ _ _ _ =>
  of_length rfl fun _ => by simp [LinkCommand.fieldBytes]

theorem windowMode : ∀ x0 x1, Statement (.windowMode x0 x1) := fun _ _ =>
  of_length rfl fun _ => by simp [LinkCommand.fieldBytes]

theorem testNow : ∀ x0 x1 x2, Statement (.testNow x0 x1 x2) := fun _ _ _ =>
  of_length rfl fun _ => by simp [LinkCommand.fieldBytes]

theorem retainRequest : ∀ x0 x1, Statement (.retainRequest x0 x1) := fun _ _ =>
  of_length rfl fun _ => by simp [LinkCommand.fieldBytes]

theorem traceExport : ∀ x0 x1 x2, Statement (.traceExport x0 x1 x2) := fun _ _ _ =>
  of_length rfl fun _ => by simp [LinkCommand.fieldBytes, halfBytes]

theorem reanalyse : ∀ x0 x1, Statement (.reanalyse x0 x1) := fun _ _ =>
  of_length rfl fun _ => by simp [LinkCommand.fieldBytes]

theorem bankRelease : ∀ x0, Statement (.bankRelease x0) := fun _ =>
  of_length rfl fun _ => by simp [LinkCommand.fieldBytes]

theorem baselineLoad : ∀ x0 x1 x2 x3 x4 x5 x6, Statement (.baselineLoad x0 x1 x2 x3 x4 x5 x6) := fun _ _ _ _ _ _ _ => of_length rfl fun h => by
  simp only [Instr.wellFormed, decide_eq_true_eq] at h
  simp [LinkCommand.fieldBytes, halfBytes, zoneBytes_length]; omega

theorem baselineDrop : ∀ x0 x1, Statement (.baselineDrop x0 x1) := fun _ _ =>
  of_length rfl fun _ => by simp [LinkCommand.fieldBytes]

theorem baselineRead : ∀ x0 x1, Statement (.baselineRead x0 x1) := fun _ _ =>
  of_length rfl fun _ => by simp [LinkCommand.fieldBytes]

theorem profileWrite : ∀ x0 x1 x2 x3 x4 x5 x6 x7 x8 x9 x10 x11, Statement (.profileWrite x0 x1 x2 x3 x4 x5 x6 x7 x8 x9 x10 x11) := fun _ _ _ _ _ _ _ _ _ _ _ _ =>
  of_length rfl fun _ => by simp [LinkCommand.fieldBytes, halfBytes]

theorem profileRead : ∀ x0 x1, Statement (.profileRead x0 x1) := fun _ _ =>
  of_length rfl fun _ => by simp [LinkCommand.fieldBytes]

theorem conditionRead : ∀ x0 x1, Statement (.conditionRead x0 x1) := fun _ _ =>
  of_length rfl fun _ => by simp [LinkCommand.fieldBytes]

theorem conditionClear : ∀ x0 x1, Statement (.conditionClear x0 x1) := fun _ _ =>
  of_length rfl fun _ => by simp [LinkCommand.fieldBytes]

theorem drain : ∀ x0 x1, Statement (.drain x0 x1) := fun _ _ =>
  of_length rfl fun _ => by simp [LinkCommand.fieldBytes]

theorem noticeRead : ∀ x0, Statement (.noticeRead x0) := fun _ =>
  of_length rfl fun _ => by simp [LinkCommand.fieldBytes]

theorem noticeAck : ∀ x0 x1, Statement (.noticeAck x0 x1) := fun _ _ => of_length rfl fun h => by
  simp only [Instr.wellFormed, decide_eq_true_eq] at h
  simp [LinkCommand.fieldBytes]; omega

theorem noticeMask : ∀ x0 x1, Statement (.noticeMask x0 x1) := fun _ _ => of_length rfl fun h => by
  simp only [Instr.wellFormed, decide_eq_true_eq] at h
  simp [LinkCommand.fieldBytes, maskPairBytes_length]; omega

theorem settingsWrite : ∀ x0 x1, Statement (.settingsWrite x0 x1) := fun _ _ => of_length rfl fun h => by
  simp only [Instr.wellFormed, decide_eq_true_eq] at h
  simp [LinkCommand.fieldBytes, settingPairBytes_length]; omega

theorem settingsRead : ∀ x0, Statement (.settingsRead x0) := fun _ =>
  of_length rfl fun _ => by simp [LinkCommand.fieldBytes]

theorem statusRead : ∀ x0, Statement (.statusRead x0) := fun _ =>
  of_length rfl fun _ => by simp [LinkCommand.fieldBytes]

theorem restart : ∀ x0, Statement (.restart x0) := fun _ =>
  of_length rfl fun _ => by simp [LinkCommand.fieldBytes]

theorem fullReset : ∀ x0, Statement (.fullReset x0) := fun _ =>
  of_length rfl fun _ => by simp [LinkCommand.fieldBytes]

theorem unknownCommand : ∀ x0 x1, Statement (.unknownCommand x0 x1) := fun _ _ => of_none rfl

theorem powerOn : Statement .powerOn := of_none rfl

theorem resetInput : Statement .resetInput := of_none rfl

theorem commandFrame : ∀ x0, Statement (.commandFrame x0) := fun _ => of_none rfl

theorem frameSent : Statement .frameSent := of_none rfl

theorem secondEvent : Statement .secondEvent := of_none rfl

theorem referenceLost : Statement .referenceLost := of_none rfl

theorem referencePresent : Statement .referencePresent := of_none rfl

theorem graceTimerExpiry : Statement .graceTimerExpiry := of_none rfl

theorem setReply : ∀ x0, Statement (.setReply x0) := fun _ => of_none rfl

theorem faultReply : Statement .faultReply := of_none rfl

theorem selectorTimerExpiry : Statement .selectorTimerExpiry := of_none rfl

theorem settleTimerExpiry : Statement .settleTimerExpiry := of_none rfl

theorem hotHoldTimerExpiry : Statement .hotHoldTimerExpiry := of_none rfl

theorem headerWord : ∀ x0 x1, Statement (.headerWord x0 x1) := fun _ _ => of_none rfl

theorem sampleWord : ∀ x0, Statement (.sampleWord x0) := fun _ => of_none rfl

theorem trailerWord : ∀ x0, Statement (.trailerWord x0) := fun _ => of_none rfl

theorem statusWord : ∀ x0, Statement (.statusWord x0) := fun _ => of_none rfl

theorem shotTimerExpiry : ∀ x0, Statement (.shotTimerExpiry x0) := fun _ => of_none rfl

theorem sampleSummed : Statement .sampleSummed := of_none rfl

theorem accumulationComplete : Statement .accumulationComplete := of_none rfl

theorem sweepStart : Statement .sweepStart := of_none rfl

theorem sweepComplete : Statement .sweepComplete := of_none rfl

theorem closingActions : Statement .closingActions := of_none rfl

theorem analysisTaking : Statement .analysisTaking := of_none rfl

theorem analysisCompletion : Statement .analysisCompletion := of_none rfl

theorem reanalysisCompletion : Statement .reanalysisCompletion := of_none rfl

theorem holdTimerExpiry : ∀ x0, Statement (.holdTimerExpiry x0) := fun _ => of_none rfl

end Laws.PayloadFits

end Sys2Proof
end

