-- ==== Sys2Proof/Laws/Starts.lean ====
section
/-! SUPPORT. What the start of a sweep does, in the words of Safety.lean: the scan of the plan, the wrap of a cycle, the
sweep begun from its source, the whole choice with its start, and the start before a queued command. -/

namespace Sys2Proof.Machine

/-! ### The scan -/

theorem Span.after_zero (i : Span) : i.after 0 = i := by
  simp [Span.after]

theorem Span.after_next (i : Span) (j : Nat) : nextIndex (i.after j) = i.after (j + 1) := by
  apply Fin.ext
  simp only [nextIndex, Span.after, Fin.val_add, Fin.ofNat]
  omega

theorem Span.next_after (i : Span) (j : Nat) : Span.after (nextIndex i) j = i.after (j + 1) := by
  apply Fin.ext
  simp only [nextIndex, Span.after, Fin.val_add, Fin.ofNat]
  omega

/-- The scan takes the enabled entry `k` indexes on, when no entry before it is enabled and no wrap comes first (R7). -/
theorem scanPlan_taken {entries : Vector PlanEntry 192} {c : CycleRecord} : ∀ {k n : Nat} {i : Span}, k < n →
    (∀ j, j < k → (tableGet entries (i.after j)).enabled = false) →
    (∀ j, j ≤ k → i.after j ≠ c.start ∨ c.planStarted = 0) → (tableGet entries (i.after k)).enabled = true →
    scanPlan entries c n i = .taken (i.after k)
  | _, 0, _, h, _, _, _ => absurd h (by omega)
  | 0, n + 1, i, _, _, hw, he => by
    rw [Span.after_zero] at he
    have h0 : ¬(i = c.start ∧ 0 < c.planStarted) := by
      rintro ⟨h1, h2⟩
      rcases hw 0 (Nat.le_refl 0) with h | h
      · exact h (by rw [Span.after_zero]; exact h1)
      · omega
    rw [scanPlan, if_neg h0, if_pos he, Span.after_zero]
  | k + 1, n + 1, i, hk, hd, hw, he => by
    have h0 : ¬(i = c.start ∧ 0 < c.planStarted) := by
      rintro ⟨h1, h2⟩
      rcases hw 0 (by omega) with h | h
      · exact h (by rw [Span.after_zero]; exact h1)
      · omega
    have h1 : (tableGet entries i).enabled = false := by
      have := hd 0 (by omega)
      rwa [Span.after_zero] at this
    have ih := scanPlan_taken (entries := entries) (c := c) (k := k) (n := n) (i := nextIndex i) (by omega)
      (fun j hj => by rw [Span.next_after]; exact hd (j + 1) (by omega))
      (fun j hj => by rw [Span.next_after]; exact hw (j + 1) (by omega)) (by rw [Span.next_after]; exact he)
    rw [scanPlan, if_neg h0, if_neg (by simp [h1]), ih, Span.next_after]

/-- The scan comes round to the cycle's start after a plan sweep (R7). -/
theorem scanPlan_wrap {entries : Vector PlanEntry 192} {c : CycleRecord} (hp : 0 < c.planStarted) :
    ∀ {m n : Nat} {i : Span}, m < n → i.after m = c.start →
    (∀ j, j < m → (tableGet entries (i.after j)).enabled = false ∧ i.after j ≠ c.start) →
    scanPlan entries c n i = .wrap
  | _, 0, _, h, _, _ => absurd h (by omega)
  | 0, n + 1, i, _, hs, _ => by
    rw [Span.after_zero] at hs
    rw [scanPlan, if_pos ⟨hs, hp⟩]
  | m + 1, n + 1, i, hm, hs, hd => by
    obtain ⟨h1, h2⟩ := hd 0 (by omega)
    rw [Span.after_zero] at h1 h2
    have ih := scanPlan_wrap (entries := entries) hp (m := m) (n := n) (i := nextIndex i) (by omega)
      (by rw [Span.next_after]; exact hs) (fun j hj => by rw [Span.next_after]; exact hd (j + 1) (by omega))
    rw [scanPlan, if_neg (fun h => h2 h.1), if_neg (by simp [h1]), ih]

/-! ### The plan's span -/

theorem State.takePlanSpan_finds {s : State} {c : CycleRecord} {k : Nat} (ha : s.plan.active = some c)
    (h : s.ScanFinds c k) :
    s.takePlanSpan =
      some ({ s with plan := { s.plan with cursor := s.plan.cursor.after (k + 1) } }, s.plan.cursor.after k) := by
  obtain ⟨h1, h2, h3, h4⟩ := h
  have hs : scanPlan s.plan.entries c 192 s.plan.cursor = .taken (s.plan.cursor.after k) := scanPlan_taken h1 h2 h3 h4
  simp only [State.takePlanSpan, ha, hs, State.takeAt, Span.after_next]
  rfl

/-- The ACTIVE cycle ended with reason WRAP (R10, R13). -/
theorem State.endCycle_wrapped {s : State} {c : CycleRecord} (ha : s.plan.active = some c) :
    let ended : EndingCycle := { cycle := c, reason := .wrap, notReached := 0 }
    let e := s.endCycle .wrap 0
    e.plan =
        { s.plan with active := none, ending := if c.inFlight = 0 then s.plan.ending else s.plan.ending ++ [ended] } ∧
      e.reports = (if c.inFlight = 0 then s.reports.edged ended.record else s.reports) ∧
      NoticesGain s e (if c.inFlight = 0 then [.cycleDone] else []) ∧ e.engine = s.engine := by
  dsimp only
  by_cases h0 : c.inFlight = 0
  · have he : s.endCycle .wrap 0 = (s.withPlan { s.plan with active := none }).putCycleEnd
        { cycle := c, reason := .wrap, notReached := 0 } := by simp [State.endCycle, ha, h0]
    obtain ⟨p1, p2, p3⟩ := (s.withPlan { s.plan with active := none }).putNoted_edged
      ({ cycle := c, reason := .wrap, notReached := 0 } : EndingCycle).record .cycleDone
    rw [he]
    simp only [h0, if_true]
    refine ⟨by simp [State.putCycleEnd], p1, p2.of_congr rfl rfl rfl rfl, by simp [State.putCycleEnd]⟩
  · have he : s.endCycle .wrap 0 = s.withPlan { s.plan with
        active := none, ending := s.plan.ending ++ [{ cycle := c, reason := .wrap, notReached := 0 }] } := by
      simp [State.endCycle, ha, h0]
    rw [he]
    simp only [h0, if_false]
    exact ⟨rfl, rfl, NoticesGain.of_eq rfl id, rfl⟩

theorem State.takePlanSpan_wraps {s : State} {c : CycleRecord} {k : Nat} (ha : s.plan.active = some c)
    (ho : s.window.state = .opened) (h : s.ScanWraps c k) :
    ∃ u, Wrapped s u c k ∧ s.takePlanSpan = some (u, c.start.after k) := by
  obtain ⟨h1, h2, ⟨m, m1, m2, m3⟩, h4, h5⟩ := h
  have hs : scanPlan s.plan.entries c 192 s.plan.cursor = .wrap := scanPlan_wrap h2 m1 m2 m3
  obtain ⟨p1, p2, p3, p4⟩ := State.endCycle_wrapped ha
  let e : State := (s.endCycle .wrap 0).withPlan { (s.endCycle .wrap 0).plan with cursor := c.start }
  have hw : s.wrapCycle c = e.startCycle := by
    unfold State.wrapCycle
    exact if_pos (by simp [ho])
  have hany : e.anyEnabled = true := by
    have : (tableGet s.plan.entries (c.start.after k)).enabled = true := h5
    have he : e.plan.entries = s.plan.entries := by simp [e, p1]
    rw [State.anyEnabled, he]
    exact List.any_eq_true.mpr ⟨_, Vector.mem_toList_iff.mpr (Vector.getElem_mem (c.start.after k).isLt), this⟩
  have hplan : (s.wrapCycle c).plan = e.plan.begun := by
    rw [hw, State.startCycle_plan, if_pos hany]
  obtain ⟨e1, _, _⟩ := e.startCycle_engine
  have hc : (s.wrapCycle c).plan.active = some
      { number := if s.plan.lastNumber < 65535 then s.plan.lastNumber + 1 else 1, start := c.start, planStarted := 0,
        planEnded := 0, extraStarted := 0, extraEnded := 0 } := by
    rw [hplan]
    simp [Plan.begun, e, p1]
  have hs2 : scanPlan s.plan.entries
      { number := if s.plan.lastNumber < 65535 then s.plan.lastNumber + 1 else 1, start := c.start, planStarted := 0,
        planEnded := 0, extraStarted := 0, extraEnded := 0 } 192 (s.wrapCycle c).plan.cursor =
      .taken (c.start.after k) := by
    have hcur : (s.wrapCycle c).plan.cursor = c.start := by rw [hplan]; simp [Plan.begun, e]
    rw [hcur]
    exact scanPlan_taken h1 h4 (fun _ _ => Or.inr rfl) h5
  refine ⟨(s.wrapCycle c).takeAt (c.start.after k), ⟨?_, ?_, ?_, ?_, ?_⟩, ?_⟩
  · simp only [State.takeAt, State.withPlan_plan, hplan, Span.after_next]
    simp [Plan.begun, e, p1]
  · simp only [State.takeAt, State.withPlan_reports, hw, State.startCycle_frame]
    simpa [e] using p2
  · refine p3.of_congr rfl rfl ?_ ?_ <;> simp [hw, e]
  · apply State.ext_fields <;> simp [hw, e]
  · simp only [State.takeAt, State.withPlan_engine, hw]
    rw [e1]
    simp [e]
  · simp only [State.takePlanSpan, ha, hs, hc, hs2]

/-! ### The start -/

/-- The start of a sweep counted in the ACTIVE cycle, if there is one (R12). -/
theorem State.countStarted_eq (s : State) (as : CountedAs) :
    s.countStarted as = { s with plan := { s.plan with active := s.plan.active.map fun c => c.countStart as } } := by
  unfold State.countStarted
  cases ha : s.plan.active with
  | none =>
    cases s with
    | mk plan => cases plan; simp_all
  | some c => rfl

/-- The sweep begun from a state in which its source has been taken (R39). -/
theorem State.beginSweep_begun (s : State) (x : Source) (n : BankName) :
    Begun s (s.beginSweep x n) n x.span x.reason x.cls x.countedAs := by
  have hb : s.beginSweep x n = State.select
      { s.setBank n
          { state := .filling, sums := [], context := some (s.buildContext x n), accepted := 0, reanalysis := .idle,
            hold := .stopped, releasePending := false, exporting := none } with
        plan := { s.plan with active := s.plan.active.map fun c => c.countStart x.countedAs }
        port := s.port.endSumming n
        reports := { s.reports with reserved := s.reports.reserved + 9 }
        engine := { s.engine with state := .selecting, bank := some n, outcome := none } } (s.buildContext x n) := by
    unfold State.beginSweep
    dsimp only
    rw [State.countStarted_eq]
    cases n <;> rfl
  have hc : s.buildContext x n =
      { span := x.span, reason := x.reason, countedAs := x.countedAs,
        cls := x.cls.getD (s.group (s.entry x.span).group).live.baseClass, port := (s.entry x.span).port,
        settings := (s.group (s.entry x.span).group).live, generation := (s.slot x.span).generation,
        cycle := s.plan.active.map (·.number),
        retain := decide (s.banks.retainSlot = some x.span) && !s.banks.a.retains && !s.banks.b.retains,
        accepted := 0, rejected := 0, lost := 0, consecutiveLost := 0, bank := n } := by
    simp only [State.buildContext, State.retainFor]
    congr 3
    exact beq_eq_decide _ _
  rw [hb]
  have hs := State.select_selects (c := s.buildContext x n) (s :=
    { s.setBank n
        { state := .filling, sums := [], context := some (s.buildContext x n), accepted := 0, reanalysis := .idle,
          hold := .stopped, releasePending := false, exporting := none } with
      plan := { s.plan with active := s.plan.active.map fun c => c.countStart x.countedAs }
      port := s.port.endSumming n
      reports := { s.reports with reserved := s.reports.reserved + 9 }
      engine := { s.engine with state := .selecting, bank := some n, outcome := none } }) rfl
  rw [hc] at hs ⊢
  obtain ⟨sp, reason, cls, as⟩ := x
  cases as <;> exact hs

/-- No source is taken when none exists (R38). -/
theorem State.takeSource_none {s : State} (h : s.sourceExists = false) : s.takeSource = none := by
  simp only [State.sourceExists, State.recheckOffers, Bool.or_eq_false_iff] at h
  obtain ⟨⟨h1, h2⟩, h3⟩ := h
  have ho : s.engine.onDemand = none := by simpa using h1
  unfold State.takeSource State.takeQueueSource
  rw [ho]
  cases hr : s.conditions.recheck with
  | nil => simp [h3]
  | cons e rest =>
    have hw : (s.window.state == .opened) = false := by simpa [hr] using h2
    simp [hw, h3]

/-- The queue offers nothing to a sweep: the plan is asked (R38). -/
theorem State.takeQueueSource_plan {s : State} (h : s.conditions.recheck = [] ∨ s.window.state ≠ .opened)
    (hp : s.planOffers = true) : s.takeQueueSource = s.takePlanSource := by
  unfold State.takeQueueSource
  cases hr : s.conditions.recheck with
  | nil => simp [hp]
  | cons e rest =>
    have hw : s.window.state ≠ .opened := h.resolve_left (by simp [hr])
    simp [hw, hp]

/-- The choice with its start (R38, R39). -/
theorem State.sweepStart_starts (s : State) : Starts s s.sweepStart := by
  refine ⟨fun h => by simp [State.sweepStart, h], fun h hn => ?_, fun n h hf hg => ?_⟩
  · have : s.sweepStart = s.choose := by
      rw [State.sweepStart, if_neg (by simp [h])]
      rcases hn with hn | hn | hn
      · rw [hn]
        cases s.reports.grants <;> rfl
      · have hg : s.reports.grants = false := by
          cases hb : s.reports.backPressure
          · simpa [Reports.grants, Config.grantMargin, Config.reportSlots, hb] using hn
          · simp [Reports.grants, hb]
        rw [hg]
      · rw [State.takeSource_none hn]
        cases s.reports.grants <;> cases s.freeBankName <;> rfl
    rw [this, State.choose_eq, if_neg (by simp [h])]
    rfl
  · have hg' : s.reports.grants = true := by
      obtain ⟨g1, g2⟩ := hg
      simp only [Reports.grants, g2, Bool.not_false, Bool.and_true, decide_eq_true_eq]
      exact g1
    have from_ : ∀ {u : State} {x : Source}, s.takeSource = some (u, x) →
        Begun u s.sweepStart n x.span x.reason x.cls x.countedAs := by
      intro u x hx
      have : s.sweepStart = u.beginSweep x n := by simp [State.sweepStart, h, hg', hf, hx]
      rw [this]
      exact u.beginSweep_begun x n
    have plan : ∀ {c : CycleRecord} {u : State} {sp : Span}, s.engine.onDemand = none →
        s.conditions.recheck = [] ∨ s.window.state ≠ .opened → s.plan.active = some c →
        (∃ i, (s.entry i).enabled = true) → s.takePlanSpan = some (u, sp) → Begun u s.sweepStart n sp .plan none .plan := by
      intro c u sp ho hr ha ⟨i, hi⟩ hu
      have hp : s.planOffers = true := by
        simp only [State.planOffers, ha, Option.isSome_some, Bool.true_and]
        exact List.any_eq_true.mpr ⟨_, Vector.mem_toList_iff.mpr (Vector.getElem_mem i.isLt), hi⟩
      refine from_ (x := { span := sp, reason := .plan, cls := none, countedAs := .plan }) ?_
      simp only [State.takeSource, ho, State.takeQueueSource_plan hr hp, State.takePlanSource, hu]
    refine ⟨fun sp ho => ?_, fun e rest ho hr hw => ?_, fun c k ho hr ha => ⟨fun hk => ?_, fun hw hk => ?_⟩⟩
    · exact from_ (x := { span := sp, reason := .onDemand, cls := none, countedAs := .extra })
        (by simp only [State.takeSource, ho]; rfl)
    · have ht : s.takeSource = some (s.setRecheck rest, e.source) := by
        simp [State.takeSource, ho, State.takeQueueSource, hr, hw]
      have := from_ ht
      refine ⟨fun hk => ?_, fun j hk => ?_, fun j hk => ?_⟩ <;>
        · simp only [RecheckEntry.source, hk] at this
          exact this
    · exact plan ho hr ha ⟨_, hk.2.2.2⟩ (State.takePlanSpan_finds ha hk)
    · obtain ⟨u, hu, ht⟩ := State.takePlanSpan_wraps ha hw hk
      exact ⟨u, hu, plan ho hr ha ⟨_, hk.2.2.2.2⟩ ht⟩

/-- The command taken after the grant of a RESPONSE (R169): a sweep that is due has started before it. -/
theorem State.dispatchBehind_takes (s : State) :
    (s.link.dispatcher ≠ .ready ∨ s.link.queue = [] → s.dispatchBehind = s) ∧
      (s.link.dispatcher = .ready → s.link.queue ≠ [] → ∃ u, Starts s u ∧ s.dispatchBehind = u.dispatch) := by
  unfold State.dispatchBehind
  split
  · rename_i hd hq
    refine ⟨fun h => ?_, fun _ _ => ⟨_, s.sweepStart_starts, rfl⟩⟩
    rcases h with h | h
    · exact absurd hd h
    · simp [hq] at h
  · rename_i hx
    refine ⟨fun _ => rfl, fun h1 h2 => ?_⟩
    cases hq : s.link.queue with
    | nil => exact absurd hq h2
    | cons f rest => exact absurd hq (hx f rest h1)

end Sys2Proof.Machine
end

