-- ==== Sys2Proof/Laws/Step.lean ====
section
/-! SUPPORT. What `exec` answers, said once: every command answers a next state; a shelf command is received; performing a
command leaves the link alone; an answer granted at once touches the link alone. -/

namespace Sys2Proof.Machine

/-- Every command answers a next state: no meaning ends in a fault or a refusal (log 16). -/
theorem exec_next (i : Instr) (s : State) : ∃ t, exec i s = .next t := by
  cases i <;> exact ⟨_, rfl⟩

/-- The row of a shelf command is the reception of its frame. -/
theorem exec_shelf {i : Instr} {tag : Byte} {c : LinkCommand} (h : i.asLink = some (tag, c)) (s : State) :
    exec i s = .next (s.receive tag c) := by
  cases i <;> first
    | (simp only [Instr.asLink, Option.some.injEq, Prod.mk.injEq] at h; obtain ⟨rfl, rfl⟩ := h; rfl)
    | (simp [Instr.asLink] at h)

/-- The reception of a command that the dispatcher takes at once. -/
theorem State.receive_free {s : State} (h : s.linkFree = true) (tag : Byte) (c : LinkCommand) :
    s.receive tag c = (s.runCommand tag c).grant := by
  simp [State.receive, h]

/-- An answer granted by an IDLE transmitter leaves the buffer for it; a busy one leaves it in the buffer. -/
theorem State.answer_grant (s : State) (d : Dispatcher) (r : Response) :
    (s.answer d r).grant =
      s.withLink
        (match s.link.transmitter with
        | none => { s.link with dispatcher := d.released, buffer := none, transmitter := some (.response r) }
        | some _ => { s.link with dispatcher := d, buffer := some r }) := by
  unfold State.grant State.answer
  cases h : s.link.transmitter <;> simp [State.withLink, State.grantResponse, h]

/-- A command's effects leave the link alone: the dispatcher answers, not the owner (R169). -/
theorem State.perform_link (s : State) (tag : Byte) (c : LinkCommand) : (s.perform tag c).state.link = s.link := by
  cases c <;> simp [State.perform, State.ok]

end Sys2Proof.Machine
end

