-- ==== Sys2Proof/Laws/Verdicts.lean ====
section
/-! SUPPORT. What the taking of a bank, the condition unit and the completions of an analysis do, in the words of
Safety.lean. -/

namespace Sys2Proof.Machine

/-! ### Taking a bank -/

/-- The mode of an analysis by the rows of R118. -/
theorem chooseMode_rows (kind : AnalysisKind) (c : SweepContext) (slot : BaselineSlot) :
    (slot.record = none → chooseMode kind c slot = (.endOnly, 0)) ∧
    ∀ b, slot.record = some b →
      let stale := (kind = .sweep ∧ slot.generation ≠ c.generation) ∨ b.binLength ≠ c.settings.binLength
      (stale → chooseMode kind c slot = (.endOnly, 0)) ∧
      (¬stale → b.cls ≠ c.cls → chooseMode kind c slot = (.endTest, b.launch)) ∧
      (¬stale → b.cls = c.cls → chooseMode kind c slot = (.full, b.launch)) := by
  refine ⟨fun h => by simp [chooseMode, h], fun b hb => ?_⟩
  have hs : ((kind == .sweep && slot.generation != c.generation) || b.binLength != c.settings.binLength) = true ↔
      ((kind = .sweep ∧ slot.generation ≠ c.generation) ∨ b.binLength ≠ c.settings.binLength) := by simp
  refine ⟨fun h => ?_, fun h hc => ?_, fun h hc => ?_⟩
  · simp only [chooseMode, hb]; rw [if_pos (hs.mpr h)]
  · simp only [chooseMode, hb]; rw [if_neg (fun x => h (hs.mp x)), if_pos (by simpa using hc)]
  · simp only [chooseMode, hb]; rw [if_neg (fun x => h (hs.mp x)), if_neg (by simpa using hc)]

/-- A bank taken under a record (R116). -/
theorem State.startAnalysis_taken (s : State) (n : BankName) (rest : List BankName) (b : Bank) (r : AnalysisRecord) :
    let t := (s.setBank n b).startAnalysis rest r
    t.bank n = b ∧ t.bank (otherBank n) = s.bank (otherBank n) ∧
      t.banks = { s.banks with a := t.banks.a, b := t.banks.b, ready := rest } ∧
      t.analyser = { s.analyser with record := some r } ∧
      t = { s with banks := t.banks, analyser := t.analyser } := by
  cases n <;> exact ⟨rfl, rfl, rfl, rfl, rfl⟩

/-- An IDLE analyser takes the head of the ready list (R83, R116). -/
theorem State.takeReady_takes (s : State) : TakesReady s s.takeReady := by
  refine ⟨fun h => ?_, fun n rest hr hb => ?_⟩
  · unfold State.takeReady
    rcases h with h | h
    · cases hr : s.analyser.record with
      | none => simp [hr] at h
      | some r => rfl
    · rw [h]
      cases s.analyser.record <;> rfl
  · have rows := fun (kind : AnalysisKind) (c : SweepContext) (p : ProfileNo) =>
      chooseMode_rows kind c (s.slot c.span)
    refine ⟨fun c hc hs => ?_, fun c p hc hs hp => ?_, fun h => ?_⟩
    · have ht : s.takeReady = (s.setBank n { s.bank n with state := .analysing }).startAnalysis rest
          (s.newRecord n .sweep c c.settings.profile) := by simp [State.takeReady, hr, hb, hc, hs]
      rw [ht]
      obtain ⟨h1, h2, h3, h4, h5⟩ := s.startAnalysis_taken n rest { s.bank n with state := .analysing }
        (s.newRecord n .sweep c c.settings.profile)
      obtain ⟨m1, m2⟩ := rows .sweep c c.settings.profile
      refine ⟨h1, h2, h3, ⟨_, h4, rfl, rfl, rfl, rfl, rfl, rfl, fun h => ?_, fun b hb => ?_⟩, h5⟩
      · simp [State.newRecord, m1 h]
      · obtain ⟨q1, q2, q3⟩ := m2 b hb
        exact ⟨fun x => by simp [State.newRecord, q1 x], fun x y => by simp [State.newRecord, q2 x y],
          fun x y => by simp [State.newRecord, q3 x y]⟩
    · have ht : s.takeReady = (s.setBank n { s.bank n with state := .analysing, reanalysis := .running }).startAnalysis
          rest (s.newRecord n .reanalysis c p) := by simp [State.takeReady, hr, hb, hc, hs, hp]
      rw [ht]
      obtain ⟨h1, h2, h3, h4, h5⟩ := s.startAnalysis_taken n rest
        { s.bank n with state := .analysing, reanalysis := .running } (s.newRecord n .reanalysis c p)
      obtain ⟨m1, m2⟩ := rows .reanalysis c p
      refine ⟨h1, h2, h3, ⟨_, h4, rfl, rfl, rfl, rfl, rfl, rfl, fun h => ?_, fun b hb => ?_⟩, h5⟩
      · simp [State.newRecord, m1 h]
      · obtain ⟨q1, q2, q3⟩ := m2 b hb
        exact ⟨fun x => by simp [State.newRecord, q1 x], fun x y => by simp [State.newRecord, q2 x y],
          fun x y => by simp [State.newRecord, q3 x y]⟩
    · unfold State.takeReady
      rw [hr, hb]
      rcases h with h | ⟨h1, h2⟩
      · simp [h]
      · dsimp only
        split
        · rename_i hs; exact absurd hs h1
        · rename_i hs hp; exact absurd ⟨hs, _, hp⟩ h2
        · rfl

/-! ### The engine's choices on the way -/

/-- The engine is as it was but for choices. -/
def EngineFollows (s u : State) : Prop :=
  u.sweepInFlight = s.sweepInFlight ∧ u.engine = { s.engine with state := u.engine.state } ∧
    (s.sweepInFlight = true → u.engine.state = s.engine.state)

theorem EngineFollows.of_eq {s u : State} (h : u.engine = s.engine) : EngineFollows s u := by
  refine ⟨by simp [State.sweepInFlight, h], by rw [h], fun _ => by rw [h]⟩

theorem EngineFollows.trans {s t u : State} (h1 : EngineFollows s t) (h2 : EngineFollows t u) : EngineFollows s u := by
  obtain ⟨a1, a2, a3⟩ := h1
  obtain ⟨b1, b2, b3⟩ := h2
  refine ⟨b1.trans a1, ?_, fun h => (b3 (a1.trans h)).trans (a3 h)⟩
  rw [b2, a2]

theorem State.choose_follows (s : State) : EngineFollows s s.choose := by
  refine ⟨s.choose_sweepInFlight, s.choose_engine, fun h => ?_⟩
  rw [State.choose_eq, if_pos h]

theorem EngineFollows.chosen {s u : State} (h : EngineFollows s u) : Chosen s u.choose :=
  State.choose_chosen_of h.1 h.2.1 h.2.2

/-- A state with the engine of a choice, and the sources it saw, is chosen. -/
theorem Chosen.of_engine {s w u : State} (h : EngineFollows s w) (he : u.engine = w.choose.engine)
    (hs : u.sourceExists = w.sourceExists) : Chosen s u := by
  obtain ⟨c1, c2⟩ := h.chosen
  refine ⟨fun hf => he.trans (c1 hf), fun hf => ?_⟩
  rw [he, c2 hf, w.choose_sourceExists, hs]

theorem State.requestTail_follows (s : State) (sp : Span) (reason : RecheckReason) :
    EngineFollows s (s.requestTail sp reason) := by
  unfold State.requestTail
  cases s.recheckAnswer sp with
  | refused => exact .of_eq rfl
  | dropped => exact .of_eq rfl
  | updated => exact .trans (.of_eq rfl) (State.choose_follows _)
  | joined => exact .trans (.of_eq rfl) (State.choose_follows _)

theorem State.removeConfirm_follows (s : State) (sp : Span) : EngineFollows s (s.removeConfirm sp) := by
  unfold State.removeConfirm
  split
  · exact .trans (.of_eq rfl) (State.choose_follows _)
  · exact .of_eq rfl

theorem State.freeBank_follows (s : State) (n : BankName) : EngineFollows s (s.freeBank n) := by
  unfold State.freeBank
  split
  · exact .trans (.of_eq (by simp)) (State.choose_follows _)
  · exact .trans (.of_eq (by simp)) (State.choose_follows _)

theorem State.putWork_follows (s : State) (l : List Record) : EngineFollows s (s.putWork l) := by
  unfold State.putWork State.releaseSlots
  exact .trans (.of_eq (by simp)) (State.choose_follows _)

/-! ### The condition unit -/

/-- What a request does depends on the plan, the baselines and the queue alone. -/
theorem AskedAtTail.of_eq {s u : State} {sp : Span} {reason : RecheckReason} {q : List RecheckEntry}
    (h1 : u.plan = s.plan) (h2 : u.baselines = s.baselines) (h3 : u.conditions.recheck = s.conditions.recheck) :
    (AskedAtTail u sp reason q ↔ AskedAtTail s sp reason q) ∧ (u.QueueIsFull sp ↔ s.QueueIsFull sp) := by
  simp only [AskedAtTail, State.QueueIsFull, State.admissible, State.queued, State.entry, State.slot, h1, h2, h3,
    and_self]

/-- The kinds that a cause raises (R142). -/
def causeKinds : Option Cause → List NoticeKind
  | some .confirmed | some .unstable | some .changed => [.faultConfirmed]
  | some .restored => [.spanRestored]
  | _ => []

theorem State.raiseCause_gain (s : State) (c : Option Cause) :
    NoticesGain s (s.raiseCause c) (causeKinds c) ∧ (s.raiseCause c).engine = s.engine ∧
      (s.raiseCause c).conditions = s.conditions := by
  cases c with
  | none => exact ⟨NoticesGain.of_eq rfl id, rfl, rfl⟩
  | some c => cases c <;> first
    | exact ⟨NoticesGain.of_eq rfl id, rfl, rfl⟩
    | exact ⟨s.raise_gain _, rfl, rfl⟩

theorem mem_causeKinds (c : Option Cause) (k : NoticeKind) : k ∈ causeKinds c ↔
    (k = .faultConfirmed ∧ (c = some .confirmed ∨ c = some .unstable ∨ c = some .changed)) ∨
      (k = .spanRestored ∧ c = some .restored) := by
  cases c with
  | none => simp [causeKinds]
  | some c => cases c <;> simp [causeKinds]

/-- The removal of a CONFIRM entry (R143). -/
theorem State.removeConfirm_queue (s : State) (sp : Span) :
    ((∃ y ∈ s.conditions.recheck, y.span = sp ∧ y.reason = .confirm) → (s.removeConfirm sp).conditions =
      { s.conditions with recheck := s.conditions.recheck.filter fun y => y.span != sp }) ∧
    (¬(∃ y ∈ s.conditions.recheck, y.span = sp ∧ y.reason = .confirm) →
      (s.removeConfirm sp).conditions = s.conditions) := by
  have h : s.queuedConfirm sp = true ↔ ∃ y ∈ s.conditions.recheck, y.span = sp ∧ y.reason = .confirm := by
    simp [State.queuedConfirm]
  unfold State.removeConfirm
  refine ⟨fun h' => ?_, fun h' => ?_⟩
  · rw [if_pos (h.mpr h')]; simp [State.setRecheck]
  · rw [if_neg (fun x => h' (h.mp x))]

theorem tableSet_again {α : Type} {n : Nat} (t : Vector α n) (i : Fin n) (x y : α) :
    tableSet (tableSet t i x) i y = tableSet t i y := by
  simp [tableSet]

/-- The ruling that a judgement stands for. -/
def Judged.ruling (j : Judged) (sp : Span) (kinds : List NoticeKind) : Ruling :=
  { outcome := j.outcome, list := j.list, cause := j.cause, entry := j.state.condition sp,
    recheck := j.state.conditions.recheck, kinds := kinds }

/-- A state in which the last fields of a span's entry are written, and some kinds raised. -/
structure LastWritten (s u : State) (sp : Span) (e : ConditionEntry) (raised : List NoticeKind) : Prop where
  plan : u.plan = s.plan
  baselines : u.baselines = s.baselines
  reports : u.reports = s.reports
  recheck : u.conditions.recheck = s.conditions.recheck
  entries : u.conditions.entries = tableSet s.conditions.entries sp e
  gain : NoticesGain s u raised
  engine : EngineFollows s u

theorem LastWritten.condition {s u : State} {sp : Span} {e : ConditionEntry} {raised : List NoticeKind}
    (h : LastWritten s u sp e raised) : u.condition sp = e := by
  simp [State.condition, h.entries]

/-- A list judged by the transitions (R138 to R143). -/
theorem State.judgeAnalysed_rules {s u : State} {sp : Span} {e : ConditionEntry} {raised : List NoticeKind}
    {r : AnalysisResult} {p : Profile} (h : LastWritten s u sp e raised) (hsp : r.context.span = sp)
    (h1 : r.tolerance = p.tolerance) (h2 : r.confirm = p.confirm) (h3 : r.clearCount = p.clearCount)
    (l : FindingList) :
    ∃ kinds, RulesByTransitions s sp e p l raised ((u.judgeAnalysed r l).ruling sp kinds) ∧
      NoticesGain s (u.judgeAnalysed r l).state kinds ∧ EngineFollows s (u.judgeAnalysed r l).state ∧
      (u.judgeAnalysed r l).state.conditions.entries =
        tableSet s.conditions.entries sp ((u.judgeAnalysed r l).state.condition sp) ∧
      (u.judgeAnalysed r l).list.findings.length = l.findings.length := by
  obtain ⟨v, hv⟩ : ∃ v, v = e.judge l.findings p.tolerance p.confirm p.clearCount := ⟨_, rfl⟩
  obtain ⟨w, hw⟩ : ∃ w, w = u.setCondition sp v.entry := ⟨_, rfl⟩
  have hj : u.judgeAnalysed r l =
      { state := (u.applyVerdict sp e.state v).raiseCause v.cause, outcome := .analysed,
        list := l.mark v.leadConfirmed, cause := v.cause } := by
    simp only [State.judgeAnalysed, hsp, h.condition, h1, h2, h3, hv]
  have hwe : w.conditions.entries = tableSet s.conditions.entries sp v.entry := by
    rw [hw]
    simp only [State.setCondition, State.withConditions_conditions, h.entries]
    exact tableSet_again _ _ _ _
  have hwr : w.conditions.recheck = s.conditions.recheck := by
    rw [hw]; simp only [State.setCondition, State.withConditions_conditions, h.recheck]
  have hwg : NoticesGain s w raised := h.gain.of_congr rfl rfl (by simp [hw]) (by simp [hw])
  have hwf : EngineFollows s w := h.engine.trans (.of_eq (by simp [hw]))
  have hwp : w.plan = s.plan := by simp [hw, h.plan]
  have hwb : w.baselines = s.baselines := by simp [hw, h.baselines]
  have hwq : w.reports = s.reports := by simp [hw, h.reports]
  obtain ⟨x, hx⟩ : ∃ x, x = u.applyVerdict sp e.state v := ⟨_, rfl⟩
  obtain ⟨c1, c2, c3⟩ := x.raiseCause_gain v.cause
  have hlist : (l.mark v.leadConfirmed).more = l.more ∧
      (∀ f rest, l.findings = f :: rest → v.leadConfirmed = true →
        (l.mark v.leadConfirmed).findings = { f with status := .confirmed } :: rest) ∧
      (l.findings = [] ∨ v.leadConfirmed = false → (l.mark v.leadConfirmed).findings = l.findings) ∧
      (l.mark v.leadConfirmed).findings.length = l.findings.length := by
    unfold FindingList.mark
    cases hl : l.findings with
    | nil => simp [hl]
    | cons f rest =>
      cases hc : v.leadConfirmed with
      | true => simp
      | false => simp [hl]
  -- what the verdict's request or removal does
  have main : ∃ full, (v.askConfirm = true ∧ s.QueueIsFull sp → full = [NoticeKind.recheckFull]) ∧
      (¬(v.askConfirm = true ∧ s.QueueIsFull sp) → full = []) ∧ NoticesGain w x full ∧ EngineFollows w x ∧
      x.conditions.entries = w.conditions.entries ∧ x.reports = w.reports ∧
      (v.askConfirm = true → AskedAtTail s sp .confirm x.conditions.recheck) ∧
      (v.askConfirm = false → (e.state = .suspect ∧ v.entry.state ≠ .suspect) →
        (∃ y ∈ s.conditions.recheck, y.span = sp ∧ y.reason = .confirm) →
        x.conditions.recheck = s.conditions.recheck.filter fun y => y.span != sp) ∧
      (v.askConfirm = false → ¬((e.state = .suspect ∧ v.entry.state ≠ .suspect) ∧
        ∃ y ∈ s.conditions.recheck, y.span = sp ∧ y.reason = .confirm) →
        x.conditions.recheck = s.conditions.recheck) := by
    cases ha : v.askConfirm with
    | true =>
      have hx' : x = w.requestTail sp .confirm := by simp [hx, State.applyVerdict, ha, hw]
      obtain ⟨q1, q2, q3, q4⟩ := w.requestTail_asked sp .confirm
      obtain ⟨o1, o2⟩ := AskedAtTail.of_eq (sp := sp) (reason := .confirm)
        (q := (w.requestTail sp .confirm).conditions.recheck) hwp hwb hwr
      rw [hx']
      have hfol := w.requestTail_follows sp .confirm
      have hrep : (w.requestTail sp .confirm).reports = w.reports := by simp
      by_cases hf : s.QueueIsFull sp
      · exact ⟨[.recheckFull], fun _ => rfl, fun h => absurd ⟨rfl, hf⟩ h, q3 (o2.mpr hf), hfol, q2, hrep,
          fun _ => o1.mp q1, nofun, nofun⟩
      · exact ⟨[], fun h => absurd h.2 hf, fun _ => rfl, q4 (fun h => hf (o2.mp h)), hfol, q2, hrep,
          fun _ => o1.mp q1, nofun, nofun⟩
    | false =>
      by_cases hl : e.state = .suspect ∧ v.entry.state ≠ .suspect
      · have hx' : x = w.removeConfirm sp := by simp [hx, State.applyVerdict, ha, hw, hl.1, hl.2]
        obtain ⟨q1, q2⟩ := w.removeConfirm_queue sp
        rw [hwr] at q1 q2
        have hen : (w.removeConfirm sp).conditions.entries = w.conditions.entries := by
          by_cases hq : ∃ y ∈ s.conditions.recheck, y.span = sp ∧ y.reason = .confirm
          · rw [q1 hq]
          · rw [q2 hq]
        rw [hx']
        have hno : (¬((e.state = .suspect ∧ v.entry.state ≠ .suspect) ∧
            ∃ y ∈ s.conditions.recheck, y.span = sp ∧ y.reason = .confirm)) →
            (w.removeConfirm sp).conditions.recheck = s.conditions.recheck := by
          intro hq
          rw [q2 fun h => hq ⟨hl, h⟩]
          exact hwr
        have hyes : (∃ y ∈ s.conditions.recheck, y.span = sp ∧ y.reason = .confirm) →
            (w.removeConfirm sp).conditions.recheck = s.conditions.recheck.filter fun y => y.span != sp := by
          intro hq
          rw [q1 hq]
        exact ⟨[], nofun, fun _ => rfl, NoticesGain.of_eq (by simp) (by simp), w.removeConfirm_follows sp, hen,
          by simp, nofun, fun _ _ => hyes, fun _ => hno⟩
      · have hx' : x = w := by
          rw [hx, hw]
          unfold State.applyVerdict
          simp only [ha, Bool.false_eq_true, if_false]
          rw [if_neg]
          simpa using hl
        rw [hx']
        exact ⟨[], nofun, fun _ => rfl, NoticesGain.of_eq rfl id, .of_eq rfl, rfl, rfl, nofun,
          fun _ h => absurd h hl, fun _ _ => hwr⟩
  obtain ⟨full, f1, f2, f3, f4, f5, f6, f7, f8, f9⟩ := main
  have hxs : (u.judgeAnalysed r l).state = x.raiseCause v.cause := by rw [hj, hx]
  have hxe : (x.raiseCause v.cause).condition sp = v.entry := by
    simp only [State.condition, c3, f5, hwe, tableGet_tableSet_same]
  refine ⟨raised ++ full ++ causeKinds v.cause, ?_, ?_, ?_, ?_, ?_⟩
  · rw [RulesByTransitions]
    simp only [Judged.ruling, hxs, hxe, c3, ← hv]
    rw [hj]
    refine ⟨rfl, hlist.1, rfl, trivial, hlist.2.1, hlist.2.2.1, f7, f8, f9, fun k => ?_⟩
    simp only [List.mem_append, mem_causeKinds, or_assoc]
    apply or_congr_right
    apply or_congr_left
    by_cases hf : v.askConfirm = true ∧ s.QueueIsFull sp
    · rw [f1 hf]; simp [hf]
    · rw [f2 hf]
      simp only [List.not_mem_nil, false_iff]
      exact fun h => hf h.2
  · rw [hxs]
    have hb : ∀ {a b : State}, a.reports = b.reports → b.reports.backPressure = true →
        a.reports.backPressure = true := fun h hb => by rw [h]; exact hb
    exact ((hwg.trans f3 (hb hwq) (hb f6)).trans c1 (fun h => hb f6 (hb hwq h)) (fun h => by
      rw [show (x.raiseCause v.cause).reports = x.reports by simp]; exact h))
  · rw [hxs]
    exact (hwf.trans f4).trans (.of_eq c2)
  · rw [hxs, hxe, c3, f5, hwe]
  · rw [hj]; exact hlist.2.2.2

/-- What the queue answers (R147). -/
theorem State.recheckAnswer_iff (s : State) (sp : Span) :
    (s.recheckAnswer sp = .refused ↔ s.admissible sp = false) ∧
    (s.recheckAnswer sp = .dropped ↔ s.QueueIsFull sp) := by
  unfold State.recheckAnswer State.QueueIsFull
  simp only [Config.recheckSlots]
  cases s.admissible sp <;> cases s.queued sp <;> by_cases h : 32 ≤ s.conditions.recheck.length <;> simp [h]

theorem formList_length (scan tail : List Finding) (h : tail.length ≤ 1) :
    (formList scan tail).findings.length ≤ 8 := by
  simp only [formList, List.length_append, List.length_take]
  omega

/-- The lists of an analysis hold at most 8 findings, an END_ONLY or ESCALATED one none (R129, R130). -/
theorem AnalysisRecord.analyse_lengths (r : AnalysisRecord) (t : Trace) :
    (r.analyse t).2.1.findings.length ≤ 8 ∧ ((r.analyse t).2.2.getD .empty).findings.length ≤ 8 := by
  have hc : ∀ (scan : List Finding) (m : Nat) (v : EndVerdict), (r.conclude scan m v).2.1.findings.length ≤ 8 ∧
      ((r.conclude scan m v).2.2.getD .empty).findings.length ≤ 8 := by
    intro scan m v
    cases v <;> simp only [AnalysisRecord.conclude]
    · exact ⟨formList_length _ _ (by simp), by simp [FindingList.empty]⟩
    · exact ⟨formList_length _ _ (by simp), by simp [FindingList.empty]⟩
    · exact ⟨formList_length _ _ (by simp), by simp [FindingList.empty]⟩
    · split
      · exact ⟨by simp [FindingList.empty], formList_length _ _ (by simp)⟩
      · exact ⟨formList_length _ _ (by simp), by simp [FindingList.empty]⟩
  unfold AnalysisRecord.analyse
  dsimp only
  split
  · exact ⟨by simp [FindingList.empty], by simp [FindingList.empty]⟩
  · exact ⟨by simp [FindingList.empty], by simp [FindingList.empty]⟩
  · exact hc _ _ _

/-- A result taken by the condition unit (R110, R136 to R143). -/
theorem State.judgeResult_rules (s : State) (r : AnalysisRecord) (t : Trace) :
    let sp := r.context.span
    let j := s.judgeResult (r.result t)
    ∃ kinds, Rules s r (r.analyse t) (t.measuredEnd r.profile r.launchUsed) (j.ruling sp kinds) ∧
      NoticesGain s j.state kinds ∧ EngineFollows s j.state ∧
      j.state.conditions.entries = tableSet s.conditions.entries sp (j.state.condition sp) ∧
      j.list.findings.length ≤ 8 := by
  intro sp j
  obtain ⟨last, hlast⟩ : ∃ last : ConditionEntry, last =
      { s.condition sp with
        lastOutcome := some (r.analyse t).1, lastEnd := some (t.measuredEnd r.profile r.launchUsed),
        lastCycle := r.context.cycle } := ⟨_, rfl⟩
  obtain ⟨u, hu⟩ : ∃ u, u = s.setCondition sp last := ⟨_, rfl⟩
  have hcur : ((s.slot sp).current r.context.generation = true) ↔
      ((s.slot sp).record.isSome = true ∧ (s.slot sp).generation = r.context.generation) := by
    simp [BaselineSlot.current]
  have hj : j = if (s.slot sp).current r.context.generation then u.judgeCurrent (r.result t)
      else { state := u, outcome := (r.analyse t).1, list := (r.analyse t).2.1, cause := none } := by
    rw [hu, hlast]; rfl
  have hL : LastWritten s u sp last [] :=
    ⟨by simp [hu], by simp [hu], by simp [hu], by simp [hu, State.setCondition], by simp [hu, State.setCondition],
      NoticesGain.of_eq (by simp [hu]) (by simp [hu]), .of_eq (by simp [hu])⟩
  obtain ⟨l1, l2⟩ := r.analyse_lengths t
  have hue : u.conditions.entries = tableSet s.conditions.entries sp (u.condition sp) := by
    rw [hL.condition]; exact hL.entries
  unfold Rules
  dsimp only
  rw [← hlast]
  by_cases hc : (s.slot sp).record.isSome = true ∧ (s.slot sp).generation = r.context.generation
  · rw [if_pos (hcur.mpr hc)] at hj
    cases ho : (r.analyse t).1 with
    | endOnly =>
      have hj' : j = { state := u, outcome := .endOnly, list := .empty, cause := none } := by
        rw [hj]; unfold State.judgeCurrent AnalysisRecord.result; simp [ho]
      rw [hj']
      refine ⟨[], ⟨fun h => absurd hc h, fun _ _ => ?_, nofun, nofun, nofun, nofun⟩, hL.gain, hL.engine, hue, by simp [FindingList.empty]⟩
      simp [Judged.ruling, hL.condition, hL.recheck, FindingList.empty]
    | analysed =>
      have hj' : j = u.judgeAnalysed (r.result t) (r.analyse t).2.1 := by
        rw [hj]; unfold State.judgeCurrent AnalysisRecord.result; simp [ho]
      obtain ⟨kinds, k1, k2, k3, k4, k5⟩ := State.judgeAnalysed_rules (r := r.result t) (p := r.profile) hL rfl rfl rfl
        rfl (r.analyse t).2.1
      rw [hj']
      exact ⟨kinds, ⟨fun h => absurd hc h, nofun, nofun, nofun, nofun, fun _ _ => k1⟩, k2, k3, k4, by rw [k5]; exact l1⟩
    | escalated =>
      have hj' : j = u.judgeEscalated (r.result t) := by
        rw [hj]; unfold State.judgeCurrent; simp [AnalysisRecord.result, ho]
      obtain ⟨o1, o2⟩ := AskedAtTail.of_eq (sp := sp) (reason := .escalate (nextClass r.context.cls))
        (q := (u.requestTail sp (.escalate (nextClass r.context.cls))).conditions.recheck) hL.plan hL.baselines hL.recheck
      obtain ⟨a1, a2⟩ := u.recheckAnswer_iff sp
      have hadm : u.admissible sp = s.admissible sp := by simp [State.admissible, State.entry, State.slot, hL.plan, hL.baselines]
      have hcls : ∀ k : PulseClass, k.val = r.context.cls.val + 1 → nextClass r.context.cls = k := by
        intro k hk
        have := k.isLt
        unfold nextClass
        rw [dif_pos (by omega)]
        exact Fin.ext hk.symm
      obtain ⟨q1, q2, q3, q4⟩ := u.requestTail_asked sp (.escalate (nextClass r.context.cls))
      have hfol := u.requestTail_follows sp (.escalate (nextClass r.context.cls))
      have hE : u.judgeEscalated (r.result t) = match u.recheckAnswer sp with
        | .joined | .updated =>
          { state := u.requestTail sp (.escalate (nextClass r.context.cls)), outcome := .escalated, list := .empty,
            cause := none }
        | .dropped | .refused => (u.requestTail sp (.escalate (nextClass r.context.cls))).judgeAnalysed (r.result t)
            ((r.analyse t).2.2.getD .empty) := rfl
      by_cases hr : s.admissible sp = false
      · have h1 : u.recheckAnswer sp = .refused := a1.mpr (hadm.trans hr)
        have h2 : u.requestTail sp (.escalate (nextClass r.context.cls)) = u := by simp [State.requestTail, h1]
        rw [h1, h2] at hE
        obtain ⟨kinds, k1, k2, k3, k4, k5⟩ := State.judgeAnalysed_rules (r := r.result t) (p := r.profile) hL rfl rfl rfl
          rfl ((r.analyse t).2.2.getD .empty)
        rw [hj', hE]
        refine ⟨kinds, ⟨fun h => absurd hc h, nofun, fun _ _ h => absurd (.inl hr) h, fun _ _ _ => k1,
          fun _ _ h => ?_, nofun⟩, k2, k3, k4, by rw [k5]; exact l2⟩
        have h3 : s.admissible sp = true := h.1
        rw [hr] at h3; cases h3
      · by_cases hf : s.QueueIsFull sp
        · have h1 : u.recheckAnswer sp = .dropped := a2.mpr (o2.mpr hf)
          have h2 : u.requestTail sp (.escalate (nextClass r.context.cls)) = u.raise .recheckFull := by
            simp [State.requestTail, h1]
          rw [h1, h2] at hE
          have hL' : LastWritten s (u.raise .recheckFull) sp last [.recheckFull] :=
            ⟨hL.plan, hL.baselines, hL.reports, hL.recheck, hL.entries,
              hL.gain.trans (u.raise_gain _) (fun h => by rw [hL.reports]; exact h) id, hL.engine⟩
          obtain ⟨kinds, k1, k2, k3, k4, k5⟩ := State.judgeAnalysed_rules (r := r.result t) (p := r.profile) hL' rfl rfl
            rfl rfl ((r.analyse t).2.2.getD .empty)
          rw [hj', hE]
          exact ⟨kinds, ⟨fun h => absurd hc h, nofun, fun _ _ h => absurd (.inr hf) h, fun _ _ h => absurd h hr,
            fun _ _ _ => k1, nofun⟩, k2, k3, k4, by rw [k5]; exact l2⟩
        · have h1 : u.recheckAnswer sp = .joined ∨ u.recheckAnswer sp = .updated := by
            cases hx : u.recheckAnswer sp with
            | joined => exact .inl rfl
            | updated => exact .inr rfl
            | refused => exact absurd (hadm.symm.trans (a1.mp hx)) hr
            | dropped => exact absurd (o2.mp (a2.mp hx)) hf
          have h2 : u.judgeEscalated (r.result t) =
              { state := u.requestTail sp (.escalate (nextClass r.context.cls)), outcome := .escalated,
                list := .empty, cause := none } := by
            rw [hE]; rcases h1 with h1 | h1 <;> rw [h1]
          have hq : (u.requestTail sp (.escalate (nextClass r.context.cls))).condition sp = last := by
            simp only [State.condition, q2]; exact hL.condition
          rw [hj', h2]
          refine ⟨[], ⟨fun h => absurd hc h, nofun, fun _ _ _ k hk => ?_, fun _ _ h => absurd h hr,
            fun _ _ h => absurd h hf, nofun⟩, ?_, hL.engine.trans hfol, ?_, by simp [FindingList.empty]⟩
          · rw [← hcls k hk]
            refine ⟨_, o1.mp q1, ?_⟩
            simp [Judged.ruling, hq, FindingList.empty]
          · exact hL.gain.trans (q4 (fun h => hf (o2.mp h))) (fun h => by rw [hL.reports]; exact h) (fun h => by simpa using h)
          · rw [hq]; rw [q2]; exact hL.entries
  · rw [if_neg (fun h => hc (hcur.mp h))] at hj
    rw [hj]
    refine ⟨[], ⟨fun _ => ?_, fun h => absurd h hc, fun h => absurd h hc, fun h => absurd h hc, fun h => absurd h hc,
      fun h => absurd h hc⟩, hL.gain, hL.engine, hue, l1⟩
    simp [Judged.ruling, hL.condition, hL.recheck]

/-- Rulings depend on conditions, plan and baselines alone. -/
theorem Rules.of_eq {s u : State} {r : AnalysisRecord} {f : AnalysisOutcome × FindingList × Option FindingList} {m : Nat}
    {x : Ruling} (h1 : u.plan = s.plan) (h2 : u.baselines = s.baselines) (h3 : u.conditions = s.conditions)
    (h : Rules u r f m x) : Rules s r f m x := by
  simp only [Rules, RulesByTransitions, AskedAtTail, State.QueueIsFull, State.admissible, State.queued, State.entry,
    State.slot, State.condition, h1, h2, h3] at h ⊢
  exact h

/-! ### Completions -/

/-- The bank at the completion of its sweep's analysis (R84, R87). -/
theorem State.settleBank_settled (s : State) (n : BankName) (c : SweepContext) :
    let b := s.bank n
    let kept := c.retain = true ∧ (s.bank (otherBank n)).held = false
    let t := s.settleBank n c
    ∃ freed : List NoticeKind,
      (kept → freed = [.traceReady] ∧
        t.bank n = { b with state := .held, reanalysis := .idle, hold := .running s.banks.holdLimit, exporting := none } ∧
        t.banks.retainSlot = none) ∧
      (¬kept → freed = (if b.hold = .expired then [.holdExpired] else []) ∧ t.bank n = b.released ∧
        t.banks.retainSlot = s.banks.retainSlot) ∧
      t.bank (otherBank n) = s.bank (otherBank n) ∧ t.banks.ready = s.banks.ready ∧
      t.banks.holdLimit = s.banks.holdLimit ∧ NoticesGain s t freed ∧ EngineFollows s t := by
  dsimp only
  have hn : otherBank n ≠ n := by cases n <;> decide
  have hk : s.keepsTrace n c = true ↔ (c.retain = true ∧ (s.bank (otherBank n)).held = false) := by
    simp [State.keepsTrace]
  unfold State.settleBank
  by_cases h : c.retain = true ∧ (s.bank (otherBank n)).held = false
  · rw [if_pos (hk.mpr h)]
    refine ⟨[.traceReady], fun _ => ⟨rfl, ?_, rfl⟩, fun h' => absurd h h', ?_, ?_, ?_, ?_, .of_eq ?_⟩
    · cases n <;> rfl
    · cases n <;> rfl
    · cases n <;> rfl
    · cases n <;> rfl
    · exact (State.raise_gain _ .traceReady).of_congr (by simp) (by simp) rfl rfl
    · cases n <;> rfl
  · rw [if_neg (fun x => h (hk.mp x))]
    obtain ⟨f1, f2, f3, f4, f5, f6, _⟩ := s.freeBank_freed n
    exact ⟨_, fun h' => absurd h' h, fun _ => ⟨rfl, f1, f3⟩, f2, f4, f5, f6, s.freeBank_follows n⟩

theorem findingRecords_length (sp : Span) : ∀ (n : Nat) (l : List Finding), (findingRecords sp n l).length = l.length
  | _, [] => rfl
  | n, _ :: rest => by simp [findingRecords, findingRecords_length sp (n + 1) rest]

/-- The completion of the analysis of a sweep (R131). -/
theorem State.completeAnalysis_reports (s : State) (r : AnalysisRecord) :
    let trace := s.traceOf r
    let m := trace.measuredEnd r.profile r.launchUsed
    let c := r.context
    let b := s.bank r.bank
    let kept := c.retain = true ∧ (s.bank (otherBank r.bank)).held = false
    ∃ (u : State) (x : Ruling) (ends : List Record) (freed : List NoticeKind),
      TakesReady u (s.completeAnalysis r) ∧ Rules s r (r.analyse trace) m x ∧
      EndCounted s.plan u.plan c.cycle c.countedAs ends ∧
      u.reports = (s.reports.worked
        (.spanResult
          { span := c.span, reason := .sweep c.reason, outcome := .analysis x.outcome, cls := c.cls,
            accepted := c.accepted, rejected := c.rejected, lost := c.lost, measuredEnd := some m,
            findingCount := x.list.findings.length, more := x.list.more,
            retained := c.retain && !(s.bank (otherBank r.bank)).held, before := (s.condition c.span).state,
            after := x.entry.state, cause := x.cause, cycle := c.cycle, endTime := s.window.time } ::
          findingRecords c.span 1 x.list.findings)).edgedAll ends ∧
      u.conditions = { entries := tableSet s.conditions.entries c.span x.entry, recheck := x.recheck } ∧
      (kept → freed = [.traceReady] ∧
        u.bank r.bank = { b with state := .held, reanalysis := .idle, hold := .running s.banks.holdLimit,
                                 exporting := none } ∧
        u.banks.retainSlot = none) ∧
      (¬kept → freed = (if b.hold = .expired then [.holdExpired] else []) ∧ u.bank r.bank = b.released ∧
        u.banks.retainSlot = s.banks.retainSlot) ∧
      u.bank (otherBank r.bank) = s.bank (otherBank r.bank) ∧ u.banks.ready = s.banks.ready ∧
      u.banks.holdLimit = s.banks.holdLimit ∧
      NoticesGain s u (x.kinds ++ freed ++ if ends = [] then [] else [.cycleDone]) ∧ Chosen s u ∧
      u =
        { s with
          plan := u.plan, engine := u.engine, banks := u.banks, analyser := { s.analyser with record := none },
          conditions := u.conditions, reports := u.reports, notices := u.notices } := by
  intro trace m c b kept
  obtain ⟨freed, s1, s2, s3, s4, s5, s6, s7⟩ := s.settleBank_settled r.bank c
  obtain ⟨a, ha⟩ : ∃ a, a = s.settleBank r.bank c := ⟨_, rfl⟩
  rw [← ha] at s1 s2 s3 s4 s5 s6 s7
  obtain ⟨j, hj⟩ : ∃ j, j = a.judgeResult (r.result trace) := ⟨_, rfl⟩
  obtain ⟨kinds, j1, j2, j3, j4, j5⟩ := a.judgeResult_rules r trace
  rw [← hj] at j1 j2 j3 j4 j5
  have hjf := a.judgeResult_frame (r.result trace)
  rw [← hj] at hjf
  obtain ⟨l, hl⟩ : ∃ l, l = Record.spanResult (a.analysedResult (r.result trace) j (s.keepsTrace r.bank c)) ::
      findingRecords c.span 1 j.list.findings := ⟨_, rfl⟩
  obtain ⟨w1, w2, _, _⟩ := State.putWork_worked (s := j.state) (l := l) (by simp [hl])
    (by rw [hl]; simp only [List.length_cons, findingRecords_length]; omega)
  obtain ⟨d, hd⟩ : ∃ d, d = j.state.putWork l := ⟨_, rfl⟩
  have w5 := j.state.putWork_follows l
  rw [← hd] at w1 w2 w5
  obtain ⟨ends, e1, e2, e3⟩ := d.countEnded_counted c.cycle c.countedAs
  obtain ⟨u, hu⟩ : ∃ u, u = (d.countEnded c.cycle c.countedAs).idleAnalyser.choose := ⟨_, rfl⟩
  have ht : s.completeAnalysis r = u.takeReady := by rw [hu, hd, hl, hj, ha]; rfl
  have hac : a.conditions = s.conditions := by simp [ha]
  have hcond : ∀ sp, a.condition sp = s.condition sp := fun sp => by simp [State.condition, hac]
  have hres : l = Record.spanResult
      { span := c.span, reason := .sweep c.reason, outcome := .analysis j.outcome, cls := c.cls,
        accepted := c.accepted, rejected := c.rejected, lost := c.lost, measuredEnd := some m,
        findingCount := j.list.findings.length, more := j.list.more,
        retained := c.retain && !(s.bank (otherBank r.bank)).held, before := (s.condition c.span).state,
        after := (j.state.condition c.span).state, cause := j.cause, cycle := c.cycle,
        endTime := s.window.time } :: findingRecords c.span 1 j.list.findings := by
    have h1 : a.window.time = s.window.time := by simp [ha]
    rw [hl]
    simp only [State.analysedResult, AnalysisRecord.result, h1, hcond]
    rfl
  have hpl : d.plan = s.plan := by simp [hd, hjf, ha]
  have hrp : j.state.reports = s.reports := by simp [hjf, ha]
  have hbk : ∀ n, u.bank n = a.bank n := fun n => by
    simp [State.bank, hu, State.idleAnalyser, hd, hjf]
  have hco : u.conditions = j.state.conditions := by simp [hu, State.idleAnalyser, hd]
  have hbanks : u.banks = a.banks := by simp [hu, State.idleAnalyser, hd, hjf]
  refine ⟨u, j.ruling c.span kinds, ends, freed, ?_, ?_, ?_, ?_, ?_, ?_, ?_, ?_, ?_, ?_, ?_, ?_, ?_⟩
  · rw [ht]; exact u.takeReady_takes
  · exact j1.of_eq (by simp [ha]) (by simp [ha]) hac
  · rw [hpl] at e1; simpa [hu, State.idleAnalyser] using e1
  · have : u.reports = (d.countEnded c.cycle c.countedAs).reports := by simp [hu, State.idleAnalyser]
    rw [this, e2, w1, hrp, hres]
    rfl
  · rw [hco]
    rw [hac] at j4
    change j.state.conditions =
      { entries := tableSet s.conditions.entries r.context.span (j.state.condition r.context.span),
        recheck := j.state.conditions.recheck }
    rw [← j4]
  · intro h; rw [hbk, hbanks]; exact s1 h
  · intro h; rw [hbk, hbanks]; exact s2 h
  · rw [hbk]; exact s3
  · rw [hbanks]; exact s4
  · rw [hbanks]; exact s5
  · have m1 : s.reports.backPressure = true → a.reports.backPressure = true := by simp [ha]
    have m2 : a.reports.backPressure = true → j.state.reports.backPressure = true := by simp [hjf]
    have m3 : j.state.reports.backPressure = true → d.reports.backPressure = true := by
      rw [w1]; exact Reports.worked_backPressure _ _
    have m4 : d.reports.backPressure = true → (d.countEnded c.cycle c.countedAs).reports.backPressure = true := by
      rw [e2]; exact Reports.edgedAll_backPressure _ _
    have g := ((s6.trans j2 m1 m2).trans w2 (fun h => m2 (m1 h)) m3).trans e3 (fun h => m3 (m2 (m1 h))) m4
    refine (g.of_congr rfl rfl (by simp [hu, State.idleAnalyser]) (by simp [hu, State.idleAnalyser])).congr fun k => ?_
    simp only [Judged.ruling, List.mem_append, List.not_mem_nil, or_false]
    exact or_congr_left or_comm
  · rw [hu]
    have q1 : EngineFollows d (d.countEnded c.cycle c.countedAs) := .of_eq (by simp)
    have q2 : EngineFollows (d.countEnded c.cycle c.countedAs) (d.countEnded c.cycle c.countedAs).idleAnalyser :=
      .of_eq rfl
    exact ((((s7.trans j3).trans w5).trans q1).trans q2).chosen
  · have hf := hjf
    apply State.ext_fields
    case h7 => simp [hu, State.idleAnalyser, hd, hjf, ha]
    all_goals simp [hu, State.idleAnalyser, hd, hjf, ha]

/-- The completion of a reanalysis (R92, R132). -/
theorem State.completeReanalysis_reports (s : State) (r : AnalysisRecord) :
    let trace := s.traceOf r
    let found := r.analyse trace
    let sp := r.context.span
    let b := s.bank r.bank
    ∃ (u : State) (freed : List NoticeKind), TakesReady u (s.completeReanalysis r) ∧
      u.reports = s.reports.worked
        (.spanResult
          { span := sp, reason := .reanalysis, outcome := .analysis found.1, cls := r.context.cls,
            accepted := r.context.accepted, rejected := r.context.rejected, lost := r.context.lost,
            measuredEnd := some (trace.measuredEnd r.profile r.launchUsed),
            findingCount := found.2.1.findings.length, more := found.2.1.more, retained := true,
            before := (s.condition sp).state, after := (s.condition sp).state, cause := none, cycle := none,
            endTime := s.window.time } :: findingRecords sp 1 found.2.1.findings) ∧
      (b.releasePending = false → freed = [] ∧
        u.bank r.bank = { b with state := .held, reanalysis := .idle, exporting := none }) ∧
      (b.releasePending = true → freed = (if b.hold = .expired then [.holdExpired] else []) ∧
        u.bank r.bank = b.released) ∧
      u.bank (otherBank r.bank) = s.bank (otherBank r.bank) ∧
      u.banks = { s.banks with a := u.banks.a, b := u.banks.b } ∧ NoticesGain s u freed ∧ Chosen s u ∧
      u =
        { s with
          engine := u.engine, banks := u.banks, analyser := { s.analyser with record := none },
          reports := u.reports, notices := u.notices } := by
  intro trace found sp b
  obtain ⟨l, hl⟩ : ∃ l, l = Record.spanResult (s.reanalysisResult (r.result trace)) ::
      findingRecords sp 1 found.2.1.findings := ⟨_, rfl⟩
  obtain ⟨w1, w2, _, _⟩ := State.putWork_worked (s := s) (l := l) (by simp [hl])
    (by rw [hl]; simp only [List.length_cons, findingRecords_length]
        have h8 : found.2.1.findings.length ≤ 8 := (r.analyse_lengths trace).1
        omega)
  have w5 := s.putWork_follows l
  obtain ⟨d, hd⟩ : ∃ d, d = s.putWork l := ⟨_, rfl⟩
  rw [← hd] at w1 w2 w5
  obtain ⟨u, hu⟩ : ∃ u, u = (d.backToHeld r.bank).idleAnalyser := ⟨_, rfl⟩
  have ht : s.completeReanalysis r = u.takeReady := by rw [hu, hd, hl]; rfl
  have hdb : ∀ n, d.bank n = s.bank n := fun n => by simp [State.bank, hd]
  have hub : ∀ n, u.bank n = (d.backToHeld r.bank).bank n := fun n => by rw [hu]; rfl
  have hn : otherBank r.bank ≠ r.bank := by cases r.bank <;> decide
  obtain ⟨f1, f2, f3, f4, f5, f6, f7⟩ := d.freeBank_freed r.bank
  have hback : d.backToHeld r.bank =
      if b.releasePending = true then d.freeBank r.bank
      else d.setBank r.bank { b with state := .held, reanalysis := .idle, exporting := none } := by
    simp only [State.backToHeld, hdb]; rfl
  have hrep : u.reports = s.reports.worked l := by rw [← w1, hu]; simp [State.idleAnalyser]
  refine ⟨u, if b.releasePending = true then (if b.hold = .expired then [.holdExpired] else []) else [], ?_, ?_, ?_, ?_,
    ?_, ?_, ?_, ?_, ?_⟩
  · rw [ht]; exact u.takeReady_takes
  · rw [hrep, hl]; rfl
  · intro h
    rw [hub, hback, h]
    exact ⟨rfl, State.bank_setBank _ _ _⟩
  · intro h
    rw [hub, hback, h]
    refine ⟨rfl, ?_⟩
    simp only [if_true]
    rw [f1, hdb]
  · rw [hub, hback]
    split
    · rw [f2, hdb]
    · rw [State.bank_setBank_ne _ hn, hdb]
  · have hub' : u.banks = (d.backToHeld r.bank).banks := by rw [hu]; rfl
    have parts : ∀ x y : Banks, x.retainSlot = y.retainSlot → x.ready = y.ready → x.holdLimit = y.holdLimit →
        x = { y with a := x.a, b := x.b } := by
      intro x y h1 h2 h3
      obtain ⟨_, _, _, _, _⟩ := x
      obtain ⟨_, _, _, _, _⟩ := y
      dsimp only at h1 h2 h3
      rw [h1, h2, h3]
    rw [hub', hback]
    split
    · have e1 : (d.freeBank r.bank).banks.retainSlot = s.banks.retainSlot := by rw [f3]; simp [hd]
      have e2 : (d.freeBank r.bank).banks.ready = s.banks.ready := by rw [f4]; simp [hd]
      have e3 : (d.freeBank r.bank).banks.holdLimit = s.banks.holdLimit := by rw [f5]; simp [hd]
      exact parts _ _ e1 e2 e3
    · have : d.banks = s.banks := by simp [hd]
      cases r.bank <;> simp [State.setBank, this]
  · have hg : NoticesGain d (d.backToHeld r.bank)
        (if b.releasePending = true then (if b.hold = .expired then [.holdExpired] else []) else []) := by
      rw [hback]
      split
      · rw [hdb] at f6; exact f6
      · exact NoticesGain.of_eq (by simp) (by simp)
    refine ((w2.trans hg ?_ (by simp)).of_congr rfl rfl (by simp [hu, State.idleAnalyser])
      (by simp [hu, State.idleAnalyser])).congr fun k => by simp
    rw [w1]; exact Reports.worked_backPressure _ _
  · by_cases hr : b.releasePending = true
    · have hx : ∃ w, d.freeBank r.bank = State.choose w ∧ w.engine = d.engine := by
        unfold State.freeBank
        split
        · exact ⟨(d.setBank r.bank (d.bank r.bank).freed).raise .holdExpired, rfl, by cases r.bank <;> rfl⟩
        · exact ⟨d.setBank r.bank (d.bank r.bank).freed, rfl, by cases r.bank <;> rfl⟩
      obtain ⟨w, hw, hwe⟩ := hx
      refine Chosen.of_engine (w5.trans (.of_eq hwe)) ?_ ?_
      · rw [hu, hback, if_pos hr, hw]; rfl
      · rw [← w.choose_sourceExists, ← hw, hu, hback, if_pos hr]; rfl
    · obtain ⟨w, hw⟩ : ∃ w, w = (s.putAll l).withReports
          { (s.putAll l).reports with reserved := (s.putAll l).reports.reserved - (Config.reservation - l.length) } :=
        ⟨_, rfl⟩
      have hdw : d = w.choose := by rw [hd, hw]; rfl
      refine Chosen.of_engine (w := w) (.of_eq (by simp [hw])) ?_ ?_
      · rw [hu, hback, if_neg hr, ← hdw]; simp [State.idleAnalyser]
      · rw [← w.choose_sourceExists, ← hdw, hu, hback, if_neg hr]
        simp [State.idleAnalyser, State.sourceExists, State.recheckOffers, State.planOffers, State.anyEnabled]
  · apply State.ext_fields
    all_goals simp [hu, State.idleAnalyser, hd]

end Sys2Proof.Machine
end

