-- ==== Sys2Proof/Tests/Slice0.lean ====
section
/-! SUPPORT. The model's own tests: an ill-formed command for each check of WellFormed, payloads written out byte by byte,
small steps, and for each statement that has hypotheses a theorem whose states and operands meet them, clause by clause. -/

namespace Sys2Proof.Tests

set_option Elab.async false

open Sys2Proof Sys2Proof.Machine

/-! ### Small states -/

/-- Span 5 is enabled at port 7. -/
def planned : State :=
  State.reset.setEntry 5 { enabled := true, port := 7, group := 0 }

/-- The window is OPEN. -/
def opened (s : State) : State :=
  s.withWindow { s.window with state := .opened }

/-- A cycle that started at index 0 is ACTIVE, with so many plan sweeps started. -/
def cycling (started : Nat) (s : State) : State :=
  (opened s).withPlan { s.plan with active := some { CycleRecord.fresh 1 0 with planStarted := started }, lastNumber := 1 }

/-- Span 5 has a baseline of one zone. -/
def based (s : State) : State :=
  s.setSlot 5
    { record := some
        { cls := 2, binLength := 10, launch := 20, endBin := 200,
          zones := [{ endBin := 200, startLevel := 29000, endLevel := 20000, kind := .fibreEnd }] },
      generation := 1 } 2047

/-- A sweep of span 5, of 256 bins and 16 shots. -/
def sweep : SweepContext :=
  { span := 5, reason := .plan, countedAs := .plan, cls := 2, port := 7,
    settings := { GroupSettings.initial with binCount := 256, shotCount := 16 }, generation := 1, cycle := none,
    retain := false, accepted := 0, rejected := 0, lost := 0, consecutiveLost := 0, bank := .a }

/-- The engine holds the sweep `c` in bank A, in state `e`, with its 9 slots reserved. -/
def sweeping (e : EngineState) (c : SweepContext) : State :=
  (((based planned).withEngine { Engine.initial with state := e, bank := some .a }).setBank .a
    { Bank.initial with state := .filling, context := some c }).withReports { Reports.initial with reserved := 9 }

/-- Bank A stands in a state of a held trace, its hold timer running. -/
def holding (st : BankState) (x : Reanalysis) : State :=
  (based planned).setBank .a
    { Bank.initial with state := st, context := some sweep, accepted := 16, reanalysis := x, hold := .running 900 }

/-- An export of bank A. -/
def exporting (sending : Bool) : State :=
  (holding .exporting .idle).setBank .a
    { (holding .exporting .idle).banks.a with
      exporting := some
        { tag := 9, start := 0, count := 256, nextBin := 0, nextIndex := 0, cancel := false, sending := sending } }

/-- The dispatcher is busy, and `n` frames wait. -/
def linkBusy (n : Nat) : State :=
  State.reset.withLink
    { Link.initial with
      dispatcher := .answering, buffer := some { tag := 1, status := .ok, code := 2, results := .nothing },
      transmitter := some (.report 0 []), queue := List.replicate n { tag := 0, payload := [0x92] } }

/-- An outstanding shot of 256 bins. -/
def shot (dark : Bool) : Shot :=
  { tag := 3, bins := 256, dark := dark, discard := false }

/-- The shot of tag 3 is outstanding and its block has `n` samples, with a header of 256 bins. -/
def receiving (n : Nat) (x : Shot) (s : State) : State :=
  s.withPort { s.port with
    outstanding := [x], fifo := List.replicate n 0,
    intake := .opened { tag := 3, headerBins := 256, count := n, overLength := false, darkSum := 0 } }

/-- The re-check queue. -/
def rechecking (q : List RecheckEntry) (s : State) : State :=
  s.setRecheck q

/-- A finding. -/
def finding : Finding :=
  { kind := .bend, location := 100, excess := 400, zone := none, status := .new }

/-! ### WellFormed: one command each check refuses -/

theorem test_refuses_stage_past_a_frame : (Instr.groupStage 0 0 (List.replicate 205 (0, 0))).wellFormed = false := by decide +kernel

theorem test_refuses_commit_past_a_count : (Instr.groupCommit 0 (List.replicate 256 0)).wellFormed = false := by decide +kernel

theorem test_refuses_load_past_a_frame :
    (Instr.baselineLoad 0 0 0 0 0 0 (List.replicate 146 ⟨0, 0, 0, 0⟩)).wellFormed = false := by decide +kernel

theorem test_refuses_ack_past_a_count : (Instr.noticeAck 0 (List.replicate 256 0)).wellFormed = false := by decide +kernel

theorem test_refuses_mask_past_a_count : (Instr.noticeMask 0 (List.replicate 256 (0, 0))).wellFormed = false := by decide +kernel

theorem test_refuses_settings_past_a_count :
    (Instr.settingsWrite 0 (List.replicate 256 (0, 0))).wellFormed = false := by decide +kernel

theorem test_refuses_unknown_past_a_frame :
    (Instr.unknownCommand 0 (List.replicate 1025 0)).wellFormed = false := by decide +kernel

theorem test_refuses_unknown_that_names_a_command : (Instr.unknownCommand 0 [0x92]).wellFormed = false := by decide +kernel

theorem test_refuses_short_header : (Instr.headerWord 0 255).wellFormed = false := by decide +kernel

theorem test_refuses_long_header : (Instr.headerWord 0 16385).wellFormed = false := by decide +kernel

theorem test_refuses_set_of_no_port : (Instr.setReply 240).wellFormed = false := by decide +kernel

/-! ### Payloads and frames, byte by byte (R166, R178) -/

theorem test_payload_planWrite : decodePayload [0x01, 12, 1, 33, 2] = .command (.planWrite 12 1 33 2) := by decide +kernel

theorem test_payload_groupStage :
    decodePayload [0x10, 4, 1, 4, 0x00, 0x01, 0x00, 0x00] = .command (.groupStage 4 [(4, 65536)]) := by decide +kernel

theorem test_payload_clockStep : decodePayload [0x21, 0xFF, 0xC4] = .command (.clockStep (-60)) := by decide +kernel

theorem test_payload_traceExport : decodePayload [0x41, 0x01, 0x00, 0x02, 0x03] = .command (.traceExport 256 515) := by
  decide +kernel

theorem test_payload_baselineLoad :
    decodePayload [0x50, 5, 2, 10, 0x00, 20, 0x01, 0x2C, 1, 0x01, 0x2C, 0x71, 0x48, 0x4E, 0x20, 2] =
      .command (.baselineLoad 5 2 10 20 300 [⟨300, 29000, 20000, 2⟩]) := by decide +kernel

theorem test_payload_settingsWrite :
    decodePayload [0x90, 1, 2, 0xFF, 0xF6] = .command (.settingsWrite [(2, -10)]) := by decide +kernel

theorem test_payload_short : decodePayload [0x01, 12, 1, 33] = .malformed := by decide +kernel

theorem test_payload_of_no_command : decodePayload [0x04] = .unknown := by decide +kernel

/-- The CRC of the nine digits, the check value of polynomial 0x1021 from 0xFFFF. -/
theorem test_crc_check_value : crcFrom 0xFFFF [0x31, 0x32, 0x33, 0x34, 0x35, 0x36, 0x37, 0x38, 0x39] = 0x29B1 := by decide +kernel

/-! ### Small steps -/

theorem test_idle_step_counts_an_edge : State.reset.idleStep.window.divider = 1 := by decide +kernel

theorem test_week_turns :
    (TimeOfWeek.next { day := 6, hour := 23, minute := 59, second := 59 }) = TimeOfWeek.initial := by decide +kernel

theorem test_cycle_number_skips_zero : nextCycleNumber 65535 = 1 := by decide +kernel

theorem test_scan_wraps_at_the_start :
    scanPlan planned.plan.entries { CycleRecord.fresh 1 0 with planStarted := 1 } 192 100 = .wrap := by decide +kernel

theorem test_scan_takes_the_next_enabled :
    scanPlan planned.plan.entries (CycleRecord.fresh 1 0) 192 6 = .taken 5 := by decide +kernel

/-- A line that falls is truncated toward zero (R123): 100 - 3 * 1 / 2 is 100 - 1. -/
theorem test_expected_truncates_toward_zero :
    (PlacedZone.expected ⟨10, 1, { endBin := 12, startLevel := 100, endLevel := 97, kind := .fibreEnd }⟩ 11) = 99 := by
  decide +kernel

theorem test_level_is_truncated : ({ Bank.initial with sums := [(3, 47)], accepted := 16 } : Bank).level 3 = 2 := by
  decide +kernel

theorem test_gates_join :
    joinGates [⟨10, 20, some (15, 1)⟩, ⟨21, 30, some (25, 2)⟩, ⟨32, 40, none⟩] =
      [⟨10, 30, some (15, 1)⟩, ⟨32, 40, none⟩] := by decide +kernel

theorem test_list_keeps_seven : (formList (List.replicate 8 finding) [endFinding .fibreBreak 9]).findings.length = 8 ∧
    (formList (List.replicate 8 finding) []).more = true := by decide +kernel

theorem test_sums_keep_their_form :
    (Sums.add (Sums.add (Sums.add [] 7 5) 2 9) 7 0) = [(2, 9), (7, 5)] ∧ (Sums.write [(2, 9)] 2 0) = [] := by decide +kernel

theorem test_alert_follows_the_mask : State.reset.alert = true ∧
    (State.reset.withNotices { pending := 6, mask := 6 }).alert = false := by decide +kernel

theorem test_stray_trailer_is_counted :
    exec (.trailerWord false) State.reset = .next (State.reset.withPort { Port.initial with stray := 1 }) := by rfl

/-! ### The hypotheses of the statements are met

Each theorem is named after its statement. Where a clause is about every number of a range, its boundaries stand here. -/

theorem witness_EmptyQueueCountsOneEdge :
    State.reset.pending = [] ∧ State.reset.window.reference = .present ∧ State.reset.window.divider + 1 < 32768 ∧
      (let s := State.reset.withWindow { Window.initial with divider := 32766 }
       s.pending = [] ∧ s.window.divider + 1 < 32768) ∧
      (let s := State.reset.withWindow { Window.initial with divider := 32767 }
       s.pending = [] ∧ s.window.reference = .present ∧ 32768 ≤ s.window.divider + 1) ∧
      (State.reset.withWindow { Window.initial with reference := .lost }).window.reference = .lost := by decide +kernel

theorem witness_ShelfCommandIsTakenAndAnswered :
    (Instr.planRead 1 191).asLink = some (1, .planRead 191) ∧ State.reset.linkFree = true ∧
      (Instr.restart 1).asLink = some (1, .restart) := by decide +kernel

theorem witness_CommandWaitsInTheQueueOrIsDiscarded :
    (rowFrame (.statusRead 1)).isSome = true ∧ (rowFrame (.unknownCommand 1 [])).isSome = true ∧
      (linkBusy 0).linkFree = false ∧ (linkBusy 3).linkFree = false ∧ (linkBusy 3).link.queue.length < 4 ∧
      (linkBusy 4).linkFree = false ∧ 4 ≤ (linkBusy 4).link.queue.length := by decide +kernel

theorem witness_UnknownCommandIsAnswered :
    State.reset.linkFree = true ∧ (Instr.unknownCommand 1 []).wellFormed = true ∧
      (Instr.unknownCommand 1 (List.replicate 1024 0xFF)).wellFormed = true := by decide +kernel

theorem witness_PayloadsDecodeToTheirCommand :
    (Instr.groupStage 1 0 (List.replicate 204 (0, 0))).wellFormed = true ∧
      ((Instr.groupStage 1 0 (List.replicate 204 (0, 0))).asLink).isSome = true ∧
      (Instr.noticeAck 1 (List.replicate 255 0)).wellFormed = true ∧ (Instr.statusRead 1).wellFormed = true := by
  decide +kernel

theorem witness_FrameBytesActAsTheirCommand :
    State.reset.link.framer = .seek ∧ State.reset.linkFree = true ∧ (Instr.statusRead 1).wellFormed = true ∧
      (Instr.statusRead 1).asLink = some (1, .statusRead) ∧
      ((linkBusy 3).link.framer = .seek ∧ (linkBusy 3).linkFree = false ∧ (linkBusy 3).link.queue.length < 4) ∧
      ((linkBusy 4).link.framer = .seek ∧ (linkBusy 4).linkFree = false ∧ 4 ≤ (linkBusy 4).link.queue.length) := by
  decide +kernel

theorem witness_FrameWithWrongCrcIsDiscarded :
    State.reset.link.framer = .seek ∧ ([0x92] : List Byte).length ≤ 1024 ∧
      (0 : Half) ≠ frameCrc 1 7 (BitVec.ofNat 16 1) [0x92] := by decide +kernel

/-- The framer stands in the given state. -/
def framing (x : Framer) : State :=
  State.reset.withLink { Link.initial with framer := x }

/-- Each framer state, with the lengths at which the clauses meet: 0, 1, 1024 and 1025. -/
theorem witness_FrameWithWrongCrc_framer_states :
    (framing .syncSeen).link.framer = .syncSeen ∧ (framing (.header [1, 7])).link.framer = .header [1, 7] ∧
      ([1, 7] : List Byte).length < 3 ∧ (framing (.header [1, 7, 4])).link.framer = .header [1, 7, 4] ∧
      (halfOf 0 0).toNat = 0 ∧ 1 ≤ (halfOf 0 1).toNat ∧ (halfOf 4 0).toNat ≤ 1024 ∧ 1024 < (halfOf 4 1).toNat ∧
      (framing (.payload 1 7 1 [])).link.framer = .payload 1 7 1 [] ∧
      (framing (.check 1 7 1 [0x92] none)).link.framer = .check 1 7 1 [0x92] none ∧
      (let crc := frameCrc 1 7 1 [0x92]
       halfOf (crc.extractLsb' 8 8) (crc.extractLsb' 0 8) = crc) := by decide +kernel

theorem witness_PlanWriteWritesTheEntry :
    planned.linkFree = true ∧ 192 ≤ (192 : Byte).toNat ∧ 240 ≤ (240 : Byte).toNat ∧ 8 ≤ (8 : Byte).toNat ∧
      (191 : Span).val = (191 : Byte).toNat ∧ (239 : SelPort).val = (239 : Byte).toNat ∧
      (7 : GroupNo).val = (7 : Byte).toNat ∧ (1 : Byte).toNat ≤ 1 ∧
      ((5 : Span) ≠ 6 ∧ (planned.entry 5).enabled = true ∧ (planned.entry 5).port = 7) ∧
      (State.reset.entry 5).enabled = false ∧ (opened State.reset).window.state = .opened ∧
      (opened State.reset).plan.active = none ∧ (opened State.reset).linkFree = true := by decide +kernel

/-- Nothing conflicts in the state after reset, whatever the span and the port. -/
theorem witness_PlanWrite_without_conflict :
    ¬((1 : Byte) = 1 ∧ ∃ j : Span, j ≠ 5 ∧ (State.reset.entry j).enabled = true ∧ (State.reset.entry j).port = 7) := by
  decide +kernel

theorem witness_PlanSeekSetsTheCursorWhileClosed :
    State.reset.linkFree = true ∧ 192 ≤ (192 : Byte).toNat ∧ (191 : Span).val = (191 : Byte).toNat ∧
      State.reset.window.state = .closed ∧ (opened State.reset).linkFree = true ∧
      (opened State.reset).window.state = .opened := by decide +kernel

theorem witness_GroupStageWritesThePendingSet :
    State.reset.linkFree = true ∧ 8 ≤ (8 : Byte).toNat ∧ (7 : GroupNo).val = (7 : Byte).toNat ∧
      (∀ v ∈ ([(1, 5), (2, 256), (4, 65536)] : List (Nat × Nat)), InRange (stageRange v.1) v.2) ∧
      ¬InRange (stageRange 2) (255 : Nat) := by
  refine ⟨by decide +kernel, by decide, by decide, ?_, ?_⟩
  · simp [InRange, stageRange]
  · simp [InRange, stageRange]

theorem witness_GroupCommitCopiesThePendingSets :
    State.reset.linkFree = true ∧ (∀ b ∈ ([0, 7] : List Byte), b.toNat ≤ 7) ∧ ¬(8 : Byte).toNat ≤ 7 ∧
      (∀ g : GroupNo, (State.reset.group g).pending.baseClass ≤ (State.reset.group g).pending.maxClass) ∧
      (0 : GroupNo).val = (0 : Byte).toNat := by decide +kernel

theorem witness_ClockSetAndWindowSetWrite :
    State.reset.linkFree = true ∧ State.reset.window.reference = .present ∧
      (State.reset.withWindow { Window.initial with reference := .lost }).linkFree = true ∧
      (6 : Fin 7).val = (6 : Byte).toNat ∧ (23 : Fin 24).val = (23 : Byte).toNat ∧
      (59 : Fin 60).val = (59 : Byte).toNat ∧ 7 ≤ (7 : Byte).toNat ∧ (127 : Byte).toNat < 128 ∧
      ¬((23 : Byte) = 5 ∧ (0 : Byte) = 0) ∧ ¬(128 : Byte).toNat < 128 := by decide +kernel

/-- The clock set, so that it can be stepped: the integrity is VALID. -/
def valid : State :=
  State.reset.withWindow { Window.initial with integrity := .valid }

theorem witness_ClockStepMovesTheTime :
    valid.linkFree = true ∧ valid.window.integrity = .valid ∧ State.reset.window.integrity = .invalid ∧
      -3600 ≤ (3600 : Half).toInt ∧ (3600 : Half).toInt ≤ 3600 ∧ -3600 ≤ (-3600 : Half).toInt ∧
      (-3600 : Half).toInt ≤ 0 ∧ ¬(3601 : Half).toInt ≤ 3600 := by decide +kernel

/-- One second before the close time of its schedule, OPEN in SCHEDULE mode with a grace of 0. -/
def beforeClose (s : State) : State :=
  opened (s.withWindow
    { Window.initial with
      time := { day := 0, hour := 1, minute := 59, second := 59 }, integrity := .valid, graceSetting := 0,
      schedule := { dayMask := 1, openHour := 1, openMinute := 0, closeHour := 2, closeMinute := 0 } })

/-- A step of one second crosses one boundary, which is a close match; the sweep in flight can be cut, with no shot
outstanding. -/
theorem witness_ClockStep_replays_a_close :
    let s := beforeClose (sweeping .selecting sweep)
    60 * (s.window.time.seconds / 60 + 1 + 0) ≤ s.window.time.seconds + 1 ∧ s.linkFree = true ∧
      s.window.integrity = .valid ∧ s.window.mode = .schedule ∧ s.window.state = .opened ∧
      (let w : Window := { s.window with time := .ofSeconds 7200 }
       w.opens = false ∧ w.closes = true) ∧
      s.sweepInFlight = true ∧ s.window.graceSetting = 0 ∧ s.context = some sweep ∧ s.stoppable sweep = true ∧
      s.engine.state ≠ .draining ∧ s.engine.bank = some .a ∧ s.port.outstanding = [] := by decide +kernel

/-- The sweep that a replayed close cuts is closed at its boundary, and the window with it (R25, R53, R32). -/
theorem test_replayed_close_closes_at_its_boundary :
    ((beforeClose (sweeping .selecting sweep)).replayBoundary (.ofSeconds 7200)).window.state = .closed := by
  obtain ⟨_, _, h⟩ := (beforeClose (sweeping .selecting sweep)).replayBoundary_replayed (.ofSeconds 7200)
  obtain ⟨u, ⟨_, _, hw, _, _, hc, _, hu⟩, _, h⟩ := h ⟨by decide +kernel, by decide +kernel, by decide +kernel, by decide +kernel⟩
  obtain ⟨he, hp⟩ := hc ⟨by decide +kernel, by decide +kernel, sweep, by decide +kernel, by decide +kernel⟩
  have hb : u.engine.bank = some .a := by rw [he]; rfl
  have hx : u.context = some sweep := by
    have : u.banks = (beforeClose (sweeping .selecting sweep)).banks := by rw [hu]
    unfold State.context State.bank
    rw [hb, this]
    rfl
  obtain ⟨_, _, _, _, _, _, _, _, _, _, _, _, _, _, _, _, _, _, hwin, _⟩ :=
    h .a sweep (by decide +kernel) (by rw [he]; rfl) (by rw [hp]; decide +kernel) hb hx
  rw [hwin, if_pos (by rw [hw (by decide +kernel)])]

/-- The window is CLOSING with its grace timer in the given condition. -/
def closing (g : GraceTimer) (s : State) : State :=
  s.withWindow { s.window with state := .closing, grace := g, closeCause := some .matched }

theorem witness_ClockReadAnswersTheClock :
    State.reset.linkFree = true ∧ (closing (.running 120) planned).linkFree = true ∧
      (closing (.running 120) planned).window.grace = .running 120 ∧
      (closing .expired planned).window.state = .closing ∧ (closing .expired planned).window.grace = .expired := by
  decide +kernel

theorem witness_WindowModeOpensTheWindow :
    planned.linkFree = true ∧ planned.window.state = .closed ∧ planned.anyEnabled = true ∧
      planned.reports.hasFree = true ∧ State.reset.anyEnabled = false ∧ 3 ≤ (3 : Byte).toNat ∧
      (closing .expired planned).window.state ≠ .opened ∧
      (planned.withReports { Reports.initial with reserved := 128 }).reports.hasFree = false ∧
      (opened planned).window.state = .opened := by decide +kernel

theorem witness_WindowModeClosesTheWindow :
    State.reset.window.state ≠ .opened ∧ (cycling 0 planned).linkFree = true ∧
      (cycling 0 planned).window.state = .opened ∧ (cycling 0 planned).sweepInFlight = false ∧
      (cycling 0 planned).plan.active.map (·.inFlight) = some 0 ∧
      (cycling 0 planned).reports.occupancy + (cycling 0 planned).reports.reserved + 2 ≤ 128 ∧
      (opened planned).plan.active = none ∧
      (cycling 1 (sweeping .firing sweep)).sweepInFlight = true ∧
      (cycling 1 (sweeping .firing sweep)).plan.active.map (·.inFlight) = some 1 ∧
      (cycling 1 (sweeping .firing sweep)).window.graceSetting ≠ 0 := by decide +kernel

/-- Day 0, 00:59:59 with the open time at 01:00 of day 0, in SCHEDULE mode. -/
def beforeOpen : State :=
  State.reset.withWindow
    { Window.initial with
      time := { day := 0, hour := 0, minute := 59, second := 59 }, integrity := .valid,
      schedule := { dayMask := 1, openHour := 1, openMinute := 0, closeHour := 2, closeMinute := 0 } }

theorem witness_ClockEventsMoveTheClock :
    State.reset.window.reference = .present ∧ State.reset.window.time.next.second ≠ 0 ∧
      beforeOpen.window.time.next.second = 0 ∧ beforeOpen.window.integrity = .valid ∧
      beforeOpen.window.mode = .schedule ∧
      (Window.opens { beforeOpen.window with time := beforeOpen.window.time.next, divider := 0 }) = true ∧
      beforeOpen.window.state ≠ .opened ∧ (opened beforeOpen).window.state = .opened ∧
      (let s := beforeClose planned
       s.window.reference = .present ∧ s.window.time.next.second = 0 ∧ s.window.state = .opened ∧
         s.window.mode = .schedule ∧ s.window.integrity = .valid ∧
         (Window.opens { s.window with time := s.window.time.next, divider := 0 }) = false ∧
         (Window.closes { s.window with time := s.window.time.next, divider := 0 }) = true) ∧
      (Window.opens { (beforeClose planned).window with time := (beforeClose planned).window.time.next, state := .closed })
        = false := by decide +kernel

theorem witness_GraceExpiryCutsOrCloses :
    State.reset.window.state ≠ .closing ∧
      (let s := closing (.running 1) (sweeping .firing sweep)
       s.window.grace = .running 1 ∧ s.sweepInFlight = true ∧ s.context = some sweep ∧ s.stoppable sweep = true) ∧
      (let c := { sweep with accepted := 16 }
       let s := closing (.running 1) (sweeping .firing c)
       s.sweepInFlight = true ∧ s.context = some c ∧ s.stoppable c = false) ∧
      (let s := closing (.running 1) planned
       s.sweepInFlight = false ∧ s.reports.hasFree = true) ∧
      (Port.initial.accumulation = [] ∧
        ∀ n ∈ [255, 256], ({ Port.initial with
            accumulation := [⟨3, 256, .a, n, true⟩, ⟨4, 256, .a, 0, true⟩] } : Port).accumulation ≠ []) := by
  decide +kernel

theorem witness_TestNowFillsTheSlot :
    planned.linkFree = true ∧ (5 : Span).val = (5 : Byte).toNat ∧ (1 : Byte).toNat ≤ 1 ∧
      (planned.entry 5).enabled = true ∧ (State.reset.entry 5).enabled = false ∧ planned.engine.onDemand = none ∧
      planned.engine.state = .idle ∧ planned.heldOrExporting = false ∧ planned.banks.retainSlot = none ∧
      (holding .held .idle).heldOrExporting = true ∧
      (planned.withEngine { Engine.initial with onDemand := some 5 }).engine.onDemand.isSome = true ∧
      (sweeping .draining sweep).engine.state = .draining ∧ ((sweeping .draining sweep).entry 5).enabled = true ∧
      (let c := { sweep with span := 9, accepted := 16 }
       let s := sweeping .firing c
       s.linkFree = true ∧ s.context = some c ∧ c.span ≠ 5 ∧ c.settings.shotCount ≤ c.accepted ∧
         (s.entry 5).enabled = true ∧ s.engine.onDemand = none) := by decide +kernel

theorem witness_TestNowConvertsOrPreempts :
    (let s := sweeping .firing sweep
     s.linkFree = true ∧ (s.entry 5).enabled = true ∧ s.engine.onDemand = none ∧ s.heldOrExporting = false ∧
       s.banks.retainSlot = none ∧ s.context = some sweep ∧ s.stoppable sweep = true) ∧
      (let s := (sweeping .selecting sweep).setEntry 9 { enabled := true, port := 9, group := 0 }
       (9 : Span).val = (9 : Byte).toNat ∧ (s.entry 9).enabled = true ∧ sweep.span ≠ 9 ∧ s.stoppable sweep = true ∧
         s.admissible 5 = true ∧ s.queued 5 = false ∧ s.conditions.recheck.length < 32) ∧
      (rechecking [⟨5, .confirm⟩] (sweeping .selecting sweep)).queued 5 = true ∧
      32 ≤ (rechecking (List.replicate 32 ⟨6, .confirm⟩) (sweeping .selecting sweep)).conditions.recheck.length := by
  decide +kernel

theorem witness_RetainRequestFillsTheSlot :
    State.reset.linkFree = true ∧ 192 ≤ (192 : Byte).toNat ∧ (191 : Span).val = (191 : Byte).toNat ∧
      State.reset.heldBank = none ∧ State.reset.banks.retainSlot = none ∧
      (holding .held .idle).heldBank.isSome = true := by decide +kernel

theorem witness_TraceExportStartsTheExport :
    (holding .held .idle).linkFree = true ∧ (holding .held .idle).heldBank = some .a ∧
      ((holding .held .idle).bank .a).context = some sweep ∧
      (0 : Half).toNat + (256 : Half).toNat ≤ sweep.settings.binCount ∧
      sweep.settings.binCount < (1 : Half).toNat + (256 : Half).toNat ∧ ¬1 ≤ (0 : Half).toNat ∧
      State.reset.heldBank = none ∧ ((holding .held (.waiting 0)).bank .a).reanalysis ≠ .idle := by decide +kernel

theorem witness_ReanalyseQueuesTheHeldBank :
    (holding .held .idle).linkFree = true ∧ 8 ≤ (8 : Byte).toNat ∧ (7 : ProfileNo).val = (7 : Byte).toNat ∧
      (holding .held .idle).heldBank = some .a ∧
      (holding .held .idle).reports.occupancy + (holding .held .idle).reports.reserved + 11 ≤ 128 ∧
      (holding .held .idle).reports.backPressure = false ∧ (holding .exporting .idle).heldBank = some .a ∧
      State.reset.heldBank = none := by decide +kernel

theorem witness_BankReleaseFreesOrMarks :
    State.reset.heldBank = none ∧ (holding .held .idle).heldBank = some .a ∧
      ((holding .held .idle).bank .a).releasePending = false ∧ (exporting true).heldBank = some .a ∧
      ((exporting true).bank .a).exporting.isSome = true ∧ (holding .analysing .running).heldBank = some .a ∧
      ((holding .held (.waiting 3)).bank .a).reanalysis = .waiting 3 ∧ (holding .held .idle).linkFree = true := by
  decide +kernel

theorem witness_HoldExpiryFreesOrMarks :
    (State.reset.bank .a).hold = .stopped ∧ ((holding .held .idle).bank .a).hold = .running 900 ∧
      ((holding .held .idle).bank .a).state = .held ∧ ((holding .held .idle).bank .a).reanalysis = .idle ∧
      ((exporting true).bank .a).state ≠ .held := by decide +kernel

/-- Two zones that the checks of BASELINE_LOAD accept, from launch bin 20 to end bin 300. -/
def zones : List ZoneWords := [⟨100, 29000, 25000, 0⟩, ⟨300, 24000, 15000, 2⟩]

theorem witness_BaselineLoadReplacesTheRecord :
    State.reset.linkFree = true ∧ LoadInRange 191 5 100 20 300 zones ∧ LoadStructured 20 300 zones ∧
      ¬LoadStructured 100 300 zones ∧ zones.length ≤ State.reset.baselines.poolFree + (State.reset.slot 191).held ∧
      (let s := State.reset.withBaselines { Baselines.initial with poolFree := 1 }
       s.linkFree = true ∧ s.baselines.poolFree + (s.slot 191).held < zones.length) ∧
      (191 : Span).val = (191 : Byte).toNat ∧ (5 : PulseClass).val = (5 : Byte).toNat := by
  refine ⟨by decide +kernel, ?_, ?_, ?_, by decide +kernel, by decide +kernel, by decide, by decide⟩
  · unfold LoadInRange; decide +kernel
  · exact ⟨by decide +kernel, ⟨_, rfl, by decide, by decide⟩, by decide +kernel⟩
  · intro h; exact absurd h.1 (by decide +kernel)

theorem witness_DropAndClearSetTheSpanBack :
    (based planned).linkFree = true ∧ 192 ≤ (255 : Byte).toNat ∧ (5 : Span).val = (5 : Byte).toNat ∧
      ((based planned).slot 5).record.isSome = true ∧ (State.reset.slot 5).record = none ∧
      (rechecking [⟨5, .confirm⟩] (based planned)).queued 5 = true ∧ (based planned).queued 5 = false := by
  decide +kernel

theorem witness_ProfileWriteWritesTheProfile :
    State.reset.linkFree = true ∧ (7 : ProfileNo).val = (7 : Byte).toNat ∧ 1 ≤ (64 : Byte).toNat ∧
      (64 : Byte).toNat ≤ 64 ∧ (20000 : Half).toNat ≤ 20000 ∧ 1 ≤ (65535 : Half).toNat ∧ (1 : Byte).toNat ≤ 1 ∧
      (15 : Byte).toNat ≤ 15 ∧ ¬1 ≤ (0 : Byte).toNat := by decide +kernel

theorem witness_ReadsAnswerTheTables :
    State.reset.linkFree = true ∧ 192 ≤ (192 : Byte).toNat ∧ 8 ≤ (8 : Byte).toNat ∧
      (191 : Span).val = (191 : Byte).toNat ∧ (7 : GroupNo).val = (7 : Byte).toNat ∧
      (7 : ProfileNo).val = (7 : Byte).toNat := by decide +kernel

theorem witness_ConditionReadAnswersTheEntry :
    (based planned).linkFree = true ∧ (based planned).queued 5 = false ∧ (5 : Span).val = (5 : Byte).toNat ∧
      (let s := rechecking [⟨6, .confirm⟩, ⟨5, .escalate 3⟩] (based planned)
       s.linkFree = true ∧ s.conditions.recheck = [⟨6, .confirm⟩] ++ ⟨5, .escalate 3⟩ :: [] ∧
         ∀ x ∈ ([⟨6, .confirm⟩] : List RecheckEntry), x.span ≠ 5) := by decide +kernel

theorem witness_JudgementFollowsTheTransitions :
    ConditionEntry.initial.state = .unknown ∧
      (let lead : Lead := { kind := .bend, location := 106, excess := 300 }
       let e : ConditionEntry := { ConditionEntry.initial with state := .suspect, lead := some lead, attempts := 2 }
       e.state = .suspect ∧ lead.kind = finding.kind ∧ lead.location ≤ finding.location + 6 ∧
         finding.location ≤ lead.location + 6 ∧ ¬lead.location ≤ finding.location + 5 ∧ 3 ≤ e.attempts + 1 ∧
         0 + 1 < 3) ∧
      (let e : ConditionEntry := { ConditionEntry.initial with state := .faulted, streak := 2 }
       3 ≤ e.streak + 1 ∧ e.streak + 1 < 4) := by decide +kernel

/-- HELD mode, with `n` records held. -/
def holdingRecords (n : Nat) : State :=
  State.reset.withReports
    { Reports.initial with
      delivery := .held,
      records := List.replicate n (.windowEdge .opened .matched TimeOfWeek.initial .valid) }

theorem witness_DrainTakesTheOldestRecords :
    State.reset.linkFree = true ∧ State.reset.reports.delivery = .stream ∧ 1 ≤ (8 : Byte).toNat ∧
      (8 : Byte).toNat ≤ 8 ∧ 8 < (9 : Byte).toNat ∧ (holdingRecords 9).reports.delivery = .held ∧
      (holdingRecords 9).linkFree = true ∧ (holdingRecords 9).reports.records ≠ [] ∧
      (holdingRecords 0).reports.records = [] := by decide +kernel

theorem witness_NoticeCommands :
    State.reset.linkFree = true ∧ (∀ b ∈ ([0, 12] : List Byte), b.toNat ≤ 12) ∧ ¬(13 : Byte).toNat ≤ 12 ∧
      (∀ p ∈ ([(0, 1), (12, 3)] : List (Byte × Byte)), p.1.toNat ≤ 12 ∧ p.2.toNat ≤ 3) ∧
      ¬(4 : Byte).toNat ≤ 3 := ⟨by decide +kernel, by simp, by decide, by simp, by decide⟩

theorem witness_SettingsWriteStoresTheValues :
    State.reset.linkFree = true ∧
      (∀ v ∈ ([(6, 117), (7, 109), (2, -40)] : List (Nat × Int)), InRange (settingRange v.1) v.2) ∧
      (lastOf 2 (60 : Int) [(2, -40)] < lastOf 1 70 []) ∧ lastOf 7 (64 : Int) [(7, 109)] + 8 ≤ lastOf 6 96 [(6, 117)] ∧
      (holdingRecords 16).reports.occupancy = 16 := by
  refine ⟨by decide +kernel, ?_, by decide, by decide, by decide +kernel⟩
  simp [InRange, settingRange]

theorem witness_SettingsAndStatusAreRead : State.reset.linkFree = true ∧ (sweeping .firing sweep).linkFree = true := by
  decide +kernel

theorem witness_ResetCommandsAreAnsweredFirst : State.reset.linkFree = true := by decide +kernel

/-- The OK of a reset command is in transmission. -/
def resetting (k : ResetCommand) (s : State) : State :=
  s.withLink { s.link with
    dispatcher := .resetPending k, transmitter := some (.response { tag := 1, status := .ok, code := 0x93, results := .nothing }) }

theorem witness_ResetTakesEffectAfterItsResponse :
    (resetting .restart State.reset).link.dispatcher = .resetPending .restart ∧
      (resetting .restart State.reset).link.transmitter.isSome = true ∧
      (resetting .fullReset State.reset).link.buffer = none ∧
      (resetting .restart (opened planned)).window.state = .opened ∧
      (resetting .restart (opened planned)).anyEnabled = true ∧
      (resetting .restart (closing .expired planned)).window.grace = .expired := by decide +kernel

theorem witness_FrameSentLetsTheArbiterGrant :
    State.reset.link.transmitter = none ∧ (linkBusy 1).link.transmitter = some (.report 0 []) ∧
      (linkBusy 1).link.buffer ≠ none ∧ (exporting false).exportOffer.isSome = true ∧
      (exporting false).link.transmitter = none ∧ (exporting false).link.buffer = none ∧
      (exporting true).exportOffer = none ∧ ((exporting true).bank .a).state = .exporting ∧
      (holdingRecords 9).reports.delivery = .held := by decide +kernel

/-- An EXPORT frame of bank A is in transmission; `last` says whether it is the final one. -/
def sendingExport (last pending : Bool) : State :=
  let s := (exporting true).setBank .a { (exporting true).banks.a with releasePending := pending }
  s.withLink { s.link with transmitter := some (.exported
    { tag := 9, span := 5, bank := .a, index := 0, firstBin := 0, levels := [], last := last, cancelled := false }) }

theorem witness_FrameSent_ends_an_export :
    (∀ last pending : Bool,
      let s := sendingExport last pending
      s.link.transmitter.isSome = true ∧ (s.bank .a).state = .exporting ∧ (s.bank .a).exporting.map (·.sending) = some true ∧
        (s.bank .a).releasePending = pending) ∧
      ((sendingExport true true).setBank .a Bank.initial).link.transmitter.isSome = true ∧
      (((sendingExport true true).setBank .a Bank.initial).bank .a).state ≠ .exporting := by decide +kernel

theorem witness_FrameSent_grants_an_export :
    (let s := exporting false
     (s.bank .a).exporting.map (·.sending) = some false ∧ (s.bank .a).context.isSome = true ∧
       (s.bank (otherBank .a)).state ≠ .exporting ∧ s.reports.delivery = .stream) ∧
      (∀ n ∈ [448, 449], 0 + n - 0 = n) := by decide +kernel

theorem witness_FrameSent_grants_a_report :
    let s := (holdingRecords 9).withReports { (holdingRecords 9).reports with delivery := .stream }
    s.link.transmitter = none ∧ s.link.buffer = none ∧ s.exportOffer = none ∧ s.reports.delivery = .stream ∧
      s.reports.records ≠ [] := by decide +kernel

theorem witness_FrameSent_takes_a_queued_frame :
    let s := State.reset.withLink { Link.initial with queue := [{ tag := 4, payload := [0x92] }] }
    s.link.dispatcher = .ready ∧ s.link.queue ≠ [] ∧
      (s.pump.link.transmitter.isSome = true ∧ s.pump.link.queue = []) := by decide +kernel

/-- TEST_NOW of span 5 and then of span 6 wait in the command queue; both spans are enabled. -/
def twoTests (s : State) : State :=
  let s' := s.setEntry 6 { enabled := true, port := 8, group := 0 }
  s'.withLink { s'.link with
    queue := [{ tag := 4, payload := [0x30, 5, 0] }, { tag := 5, payload := [0x30, 6, 0] }] }

theorem witness_FrameSent_takes_two_queued_frames :
    let s := twoTests planned
    s.link.dispatcher = .ready ∧ s.link.queue ≠ [] ∧ s.dispatch.grant.link.dispatcher = .ready ∧
      s.dispatch.grant.link.queue ≠ [] ∧
      (twoTests (linkBusy 1)).link.dispatcher ≠ .ready ∧
      (let one := planned.withLink { Link.initial with queue := [{ tag := 4, payload := [0x92] }] }
       one.link.queue ≠ [] ∧ one.dispatch.grant.link.queue = []) := by decide +kernel

/-- Behind a RESTART the sweep of the first TEST_NOW starts before the second is taken, which pre-empts it (R38, R59). -/
theorem test_sweep_starts_between_two_queued_commands :
    let s := (twoTests (resetting .restart planned)).frameSent
    s.link.buffer.map (fun r => (r.tag, r.status)) = some (5, .ok) ∧ s.engine.onDemand = some 6 ∧
      s.engine.outcome = some .preempted ∧ s.context.map (·.span) = some 5 ∧ s.outputs.selects = [7] := by decide +kernel

/-- The final EXPORT frame of bank A, released meanwhile, is in transmission; a RESPONSE waits in the buffer, and TEST_NOW of
span 6 in the command queue. Bank B holds a trace to be analysed, and TEST_NOW of span 5 has filled the slot. -/
def endingExport : State :=
  let s := ((sendingExport true true).setBank .b { Bank.initial with state := .full }).withEngine
    { Engine.initial with state := .waiting, onDemand := some 5 }
  let s' := (s.setEntry 5 { enabled := true, port := 7, group := 0 }).setEntry 6 { enabled := true, port := 8, group := 0 }
  s'.withLink { s'.link with
    dispatcher := .answering, buffer := some { tag := 1, status := .ok, code := 2, results := .nothing },
    queue := [{ tag := 5, payload := [0x30, 6, 0] }] }

/-- A sweep that the freed bank lets start has started before the queued command is taken, which pre-empts it (log 28). -/
theorem test_sweep_starts_before_a_command_behind_an_export :
    endingExport.freeBankName = none ∧
      (let s := endingExport.frameSent
       s.link.buffer.map (fun r => (r.tag, r.status)) = some (5, .ok) ∧ s.engine.onDemand = some 6 ∧
         s.engine.outcome = some .preempted ∧ s.context.map (·.span) = some 5) := by decide +kernel

theorem witness_FrameSent_of_an_ended_export :
    (let s := (sendingExport false false).setBank .a (exporting false).banks.a
     s.link.transmitter.isSome = true ∧ (s.bank .a).state = .exporting ∧
       (s.bank .a).exporting.map (·.sending) = some false) ∧
      (let b := (exporting false).banks.a
       let s := (sendingExport false false).setBank .a { b with exporting := none }
       (s.bank .a).state = .exporting ∧ (s.bank .a).exporting = none) := by decide +kernel

theorem witness_SelectorRepliesEndTheRequest :
    (∀ p : SelPort, planned.engine.selector ≠ .moving p) ∧ (7 : SelPort).val = (7 : Byte).toNat ∧
      (8 : Byte).toNat ≠ (7 : SelPort).val ∧ (sweeping .selecting sweep).context = some sweep ∧
      (sweeping .selecting sweep).engine.state = .selecting ∧ sweep.port = 7 ∧ sweep.port ≠ 8 ∧
      ((planned.withEngine { Engine.initial with selector := .moving 7, selectorTimer := some 400 }).engine.selectorTimer.isSome
        = true) ∧
      (∀ p ∈ [(7 : SelPort), 8],
        let s := (sweeping .selecting sweep).withEngine
          { (sweeping .selecting sweep).engine with selector := .moving p, selectorTimer := some 400 }
        s.engine.selector = .moving p ∧ s.engine.state = .selecting ∧ s.context = some sweep ∧
          s.engine.selectorTimer.isSome = true) := by decide +kernel

theorem witness_SettleExpiryEntersDarkCheck :
    (let s := (sweeping .settling sweep).withEngine
        { (sweeping .settling sweep).engine with settleTimer := some 20, selector := .atPort 7 false }
     s.engine.state = .settling ∧ s.engine.settleTimer = some 20 ∧ s.context = some sweep ∧ s.port.outstanding = [] ∧
       s.port.fifo.length + sweep.settings.binCount ≤ 32768 ∧
       (s.withPort { s.port with outstanding := [{ shot true with discard := true }] }).port.outstanding ≠ [] ∧
       32768 < (s.withPort { s.port with fifo := List.replicate 32513 0 }).port.fifo.length +
         sweep.settings.binCount) ∧
      State.reset.engine.settleTimer = none := by decide +kernel

theorem witness_ThermalGateFollowsTheTemperature :
    State.reset.port.gate = .cool ∧ State.reset.port.hotLimit ≤ 70 ∧ (69 : Int) < State.reset.port.hotLimit ∧
      State.reset.engine.state ≠ .firing ∧ State.reset.engine.state ≠ .darkCheck ∧
      (60 : Int) ≤ State.reset.port.coolLimit ∧ State.reset.port.coolLimit < 61 ∧
      (sweeping .firing sweep).context = some sweep ∧ (sweeping .firing sweep).engine.state = .firing ∧
      (sweeping .hotHold sweep).engine.state = .hotHold ∧
      (let s := (sweeping .hotHold sweep).withEngine { (sweeping .hotHold sweep).engine with hotHoldTimer := true }
       let h := s.withPort { s.port with gate := .hot }
       s.engine.hotHoldTimer = true ∧ h.engine.state = .hotHold ∧ h.port.gate = .hot ∧ 60 ≤ h.port.coolLimit ∧
         h.port.coolLimit < 61 ∧ h.context = some sweep) := by decide +kernel

theorem witness_HeaderAndSampleAreTaken :
    (∀ b, State.reset.port.intake ≠ .opened b) ∧ State.reset.port.shot 3 = none ∧
      (let s := (sweeping .firing sweep).withPort { Port.initial with outstanding := [shot false] }
       s.port.shot 3 = some (shot false)) ∧
      (receiving 2 (shot false) (sweeping .draining sweep)).port.shot 3 = some (shot false) ∧
      255 < (shot false).bins ∧ (shot false).bins ≤ 256 := by
  refine ⟨fun b h => ?_, by decide +kernel, by decide +kernel, by decide +kernel, by decide, by decide⟩
  cases h

/-- An open block with every count of its last sample, in each engine state that counts its tear. -/
theorem witness_HeaderAndSample_open_blocks :
    (∀ n ∈ [255, 256], ∀ e ∈ [EngineState.firing, .hotHold],
      let s := receiving n (shot false) (sweeping e sweep)
      s.port.shot 3 = some (shot false) ∧ s.context = some sweep ∧ s.engine.state = e) ∧
      ((receiving 2 (shot true) (sweeping .darkCheck sweep)).port.shot 3 = some (shot true)) ∧
      (let s := receiving 2 (shot false) (sweeping .firing { sweep with rejected := 15 })
       s.context.map (fun c => decide (c.settings.rejectLimit ≤ c.rejectedOnce.rejected)) = some true) ∧
      (let s := receiving 2 { shot false with tag := 4 } (sweeping .firing sweep)
       s.port.shot 3 = none) := by decide +kernel

theorem witness_TrailerJudgesTheBlock :
    State.reset.port.intake = .noBlock ∧
      (let s := receiving 256 (shot false) (sweeping .firing sweep)
       s.port.shot 3 = some (shot false) ∧ s.engine.bank = some .a ∧ s.context = some sweep ∧
         s.engine.state = .firing ∧ sweep.accepted < 65536 ∧ sweep.rejected < 255 ∧
         sweep.rejected + 1 < sweep.settings.rejectLimit) ∧
      ({ sweep with rejected := 15 }.settings.rejectLimit ≤ 15 + 1) ∧
      (let s := receiving 256 (shot true) (sweeping .darkCheck sweep)
       s.port.shot 3 = some (shot true) ∧ s.engine.state = .darkCheck ∧ 0 / (shot true).bins < sweep.settings.litLevel ∧
         sweep.settings.litLevel ≤ 512000 / (shot true).bins ∧
         (receiving 255 (shot true) (sweeping .darkCheck sweep)).port.shot 3 = some (shot true)) ∧
      (let s := receiving 256 (shot false) (sweeping .hotHold sweep)
       s.port.shot 3 = some (shot false) ∧ s.engine.state = .hotHold ∧ s.engine.bank = some .a ∧ s.context = some sweep) ∧
      (let s := receiving 256 { shot false with discard := true } (sweeping .draining sweep)
       s.port.shot 3 = some { shot false with discard := true } ∧ s.engine.state = .draining) ∧
      (receiving 256 (shot false) planned).engine.bank = none := by decide +kernel

theorem witness_ShotTimerExpiryLosesTheShot :
    State.reset.port.shot 3 = none ∧
      (let s := receiving 2 (shot true) (sweeping .darkCheck { sweep with consecutiveLost := 2 })
       s.port.shot 3 = some (shot true) ∧ s.engine.state = .darkCheck ∧
         s.context.map (·.consecutiveLost) = some 2) ∧
      (let s := receiving 2 (shot false) (sweeping .hotHold sweep)
       s.port.shot 3 = some (shot false) ∧ s.engine.state = .hotHold ∧ sweep.consecutiveLost < 2) ∧
      (receiving 2 (shot false) (sweeping .draining sweep)).engine.state = .draining := by decide +kernel

/-- The accumulation list holds one block, of which so many samples are summed; two samples are in the FIFO. -/
def summing (summed : Nat) : State :=
  (sweeping .firing sweep).withPort { Port.initial with
    fifo := [7, 8], accumulation := [{ tag := 3, bins := 256, bank := .a, summed := summed, counted := true }] }

theorem witness_SummingFillsTheBank :
    State.reset.port.accumulation = [] ∧ (summing 254).port.fifo = [7, 8] ∧
      (summing 254).port.accumulation.map (·.summed) = [254] ∧ ((summing 254).bank .a).sums.wf = true ∧
      (255 : Nat) < 256 ∧ (256 : Nat) ≤ 256 ∧
      (let s := (summing 255).withPort { (summing 255).port with
        accumulation := [{ tag := 3, bins := 256, bank := .a, summed := 255, counted := false }] }
       s.port.fifo = [7, 8] ∧ (s.bank .a).sums.wf = true ∧
         s.port.accumulation.map (fun x => (x.counted, x.bins - x.summed)) = [(false, 1)]) := by decide +kernel

theorem witness_SweepStartTakesTheFirstSource :
    (sweeping .firing sweep).sweepInFlight = true ∧ planned.sweepInFlight = false ∧ planned.sourceExists = false ∧
      planned.freeBankName = some .a ∧ planned.reports.occupancy + planned.reports.reserved + 11 ≤ 128 ∧
      planned.reports.backPressure = false ∧
      (planned.withEngine { Engine.initial with onDemand := some 5 }).engine.onDemand = some 5 ∧
      (∀ n ∈ [BankName.a, .b],
        let s := planned.withPort { Port.initial with
          fifo := [7], accumulation := [{ tag := 3, bins := 256, bank := n, summed := 255, counted := false }] }
        s.freeBankName = some .a ∧ s.port.accumulation.map (·.bank) = [n]) ∧
      (let s := rechecking [⟨5, .retry 3⟩] (opened (based planned))
       s.engine.onDemand = none ∧ s.conditions.recheck = [⟨5, .retry 3⟩] ∧ s.window.state = .opened) ∧
      (let s := cycling 0 planned
       s.conditions.recheck = [] ∧ s.plan.active = some (CycleRecord.fresh 1 0)) := by decide +kernel

theorem witness_SweepStart_finds : (cycling 0 planned).ScanFinds (CycleRecord.fresh 1 0) 5 := by
  unfold State.ScanFinds
  decide +kernel

/-- The scan comes round to the start of the cycle: the cursor is at it, and a plan sweep has started; the sweep is still
unreported, or its end has been counted. -/
theorem witness_SweepStart_wraps :
    (let c := { CycleRecord.fresh 1 0 with planStarted := 1 }
     (cycling 1 planned).plan.active = some c ∧ (cycling 1 planned).window.state = .opened ∧
       (cycling 1 planned).ScanWraps c 5 ∧ c.inFlight = 1) ∧
      ({ CycleRecord.fresh 1 0 with planStarted := 1, planEnded := 1 } : CycleRecord).inFlight = 0 := by
  refine ⟨⟨by decide +kernel, by decide +kernel, ⟨by decide, by decide, ⟨0, ?_⟩, ?_⟩, by decide⟩, by decide⟩ <;>
    decide +kernel

theorem witness_SweepCompleteHandsTheBankOver :
    State.reset.context = none ∧ (sweeping .firing sweep).completes sweep = false ∧
      (let c := { sweep with accepted := 16 }
       let s := (sweeping .firing c).setBank .a { (sweeping .firing c).banks.a with accepted := 16 }
       s.engine.bank = some .a ∧ s.context = some c ∧ c.settings.shotCount ≤ c.accepted ∧
         c.settings.shotCount ≤ (s.bank c.bank).accepted ∧
         (closing .expired s).window.state = .closing ∧ (closing .expired s).reports.hasFree = true) := by decide +kernel

/-- DRAINING with an outcome decided and no shot outstanding. -/
def draining (c : SweepContext) : State :=
  (sweeping .draining c).withEngine { (sweeping .draining c).engine with outcome := some .lit }

theorem witness_ClosingActionsEndTheSweep :
    (sweeping .firing sweep).engine.state ≠ .draining ∧
      (let c := { sweep with reason := .confirm }
       let s := draining c
       s.engine.bank = some .a ∧ s.engine.outcome = some .lit ∧ s.context = some c ∧ s.port.outstanding = [] ∧
         s.admissible 5 = true ∧ s.queued 5 = false ∧ s.conditions.recheck.length < 32) ∧
      (draining { sweep with reason := .escalate }).context.map (·.reason) = some .escalate ∧
      (closing .expired (draining sweep)).window.state = .closing ∧
      (let s := rechecking (List.replicate 32 ⟨6, .confirm⟩) (draining { sweep with reason := .confirm })
       s.admissible 5 = true ∧ s.queued 5 = false ∧ 32 ≤ s.conditions.recheck.length) ∧
      (rechecking [⟨6, .confirm⟩, ⟨5, .confirm⟩] (draining sweep)).queued 5 = true ∧
      ((draining sweep).setEntry 5 PlanEntry.initial).admissible 5 = false ∧
      (let c := { sweep with cycle := some 1 }
       let s := (draining c).withPlan { (draining c).plan with
         ending := [{ cycle := { CycleRecord.fresh 1 0 with planStarted := 1 }, reason := .close, notReached := 0 }] }
       s.context.map (·.cycle) = some (some 1) ∧ s.plan.active = none ∧ s.port.outstanding = [] ∧
         s.plan.ending.map (fun e => (e.cycle.number, (e.cycle.ended .plan).inFlight)) = [(1, 0)]) := by decide +kernel

/-- Bank A is FULL at the head of the ready list, with all its shots summed. -/
def full : State :=
  let s := (based planned).setBank .a { Bank.initial with state := .full, context := some sweep, accepted := 16 }
  s.withBanks { s.banks with ready := [.a] }

theorem witness_AnalysisTakingMakesTheRecord :
    State.reset.banks.ready = [] ∧ full.analyser.record = none ∧ full.banks.ready = [.a] ∧
      (full.bank .a).context = some sweep ∧ (full.bank .a).state = .full ∧ (full.slot sweep.span).generation = 1 ∧
      (full.slot sweep.span).record.isSome = true ∧ ((holding .held (.waiting 2)).bank .a).state = .held ∧
      ((holding .held (.waiting 2)).bank .a).reanalysis = .waiting 2 := by decide +kernel

/-- The analyser runs on bank A. -/
def analysing (k : AnalysisKind) (s : State) : State :=
  s.withAnalyser { s.analyser with record := some (s.newRecord .a k sweep 0) }

theorem witness_AnalysisCompletionReportsTheSweep :
    State.reset.analyser.record = none ∧ (analysing .sweep full).analyser.record.map (·.kind) = some .sweep ∧
      ((analysing .sweep full).slot 5).record.isSome = true ∧
      ((analysing .sweep full).slot 5).generation = sweep.generation ∧
      (analysing .sweep full).analyser.record.map (fun r => (r.analyse ((analysing .sweep full).traceOf r)).1) =
        some .analysed ∧
      ({ sweep with retain := true }.retain = true ∧ (full.bank (otherBank .a)).held = false) := by decide +kernel

/-- The trace of bank A sinks gently at bin 21: a FADE, which the sweep of class 2 escalates. -/
def fading (s : State) : State :=
  analysing .sweep (s.setBank .a { full.banks.a with sums := [(20, 32000)] })

/-- The bin length of the baseline is another one. -/
def otherLength (s : State) : State :=
  s.setSlot 5 { s.slot 5 with record := (s.slot 5).record.map fun b => { b with binLength := 11 } } 2047

/-- The outcome of the analysis that runs. -/
def outcomeNow (s : State) : Option AnalysisOutcome :=
  s.analyser.record.map fun r => (r.analyse (s.traceOf r)).1

theorem witness_AnalysisCompletion_by_outcome :
    outcomeNow (analysing .sweep (otherLength full)) = some .endOnly ∧
      ((otherLength full).slot 5).record.isSome = true ∧ ((otherLength full).slot 5).generation = sweep.generation ∧
      outcomeNow (fading full) = some .escalated ∧ (3 : PulseClass).val = sweep.cls.val + 1 ∧
      ((fading full).admissible 5 = true ∧ (fading full).conditions.recheck.length < 32) ∧
      (fading (full.setEntry 5 PlanEntry.initial)).admissible 5 = false ∧
      (let s := rechecking (List.replicate 32 ⟨6, .confirm⟩) (fading full)
       outcomeNow s = some .escalated ∧ s.admissible 5 = true ∧ s.queued 5 = false ∧ 32 ≤ s.conditions.recheck.length) ∧
      ((analysing .sweep full).setSlot 5 { ((analysing .sweep full).slot 5) with generation := 2 } 2047).slot 5 ≠
        (analysing .sweep full).slot 5 ∧
      (let e : ConditionEntry := { ConditionEntry.initial with state := .suspect, lead := some ⟨.bend, 100, 300⟩ }
       let s := rechecking [⟨5, .confirm⟩] ((analysing .sweep full).setCondition 5 e)
       (s.condition 5).state = .suspect ∧ ∃ y ∈ s.conditions.recheck, y.span = 5 ∧ y.reason = .confirm) := by
  decide +kernel

theorem witness_ReanalysisCompletionReportsTheTrace :
    (analysing .reanalysis (holding .analysing .running)).analyser.record.map (·.kind) = some .reanalysis ∧
      ((analysing .reanalysis (holding .analysing .running)).bank .a).releasePending = false ∧
      (let s := holding .analysing .running
       let t := analysing .reanalysis (s.setBank .a { s.banks.a with releasePending := true, hold := .expired })
       (t.bank .a).releasePending = true ∧ (t.bank .a).hold = .expired) := by decide +kernel

/-- The baseline of section 7.12. -/
def twoZones : Baseline :=
  { cls := 2, binLength := 10, launch := 10, endBin := 121,
    zones := [{ endBin := 60, startLevel := 30000, endLevel := 29500, kind := .splice },
      { endBin := 121, startLevel := 29300, endLevel := 28700, kind := .fibreEnd }] }

/-- The profile of section 7.12. -/
def scanProfile : Profile :=
  { Profile.initial with persistence := 3, bend := 300, grown := 200, tolerance := 3, blind := 12 }

theorem witness_ReanalysisCompletion_scans :
    twoZones.Rising ∧ (∀ k < 2, (twoZones.zones[k]?).isSome = true) ∧
      twoZones.placed.map (fun z => (z.start, z.zone.endBin)) = [(10, 60), (61, 121)] ∧
      twoZones.launch < min 124 twoZones.endBin ∧ min 10 twoZones.endBin ≤ twoZones.launch ∧
      1 ≤ scanProfile.persistence ∧
      (gateAt (gatesFor scanProfile 10 120 twoZones.placed) 56 = none ∧
        gateAt (gatesFor scanProfile 10 120 twoZones.placed) 57 = some ⟨57, 63, some (60, 1)⟩ ∧
        gateAt (gatesFor scanProfile 10 120 twoZones.placed) 63 = some ⟨57, 63, some (60, 1)⟩ ∧
        gateAt (gatesFor scanProfile 10 120 twoZones.placed) 64 = none) := by
  unfold Baseline.Rising
  decide +kernel

theorem reset_disabled (i : Span) : (State.reset.entry i).enabled = false := by
  simp [State.entry, tableGet, State.reset, Plan.initial, PlanEntry.initial]

theorem sweeping_ports (e : EngineState) (c : SweepContext) : (sweeping e c).PortsLaw := by
  have h : ∀ i : Span, i ≠ 5 → ((sweeping e c).entry i).enabled = false := by
    intro i hi
    have : (sweeping e c).entry i = State.reset.entry i := State.entry_setEntry_ne State.reset hi _
    rw [this]
    exact reset_disabled i
  intro i j hij hi hj
  by_cases h5 : i = 5
  · subst h5; rw [h j (Ne.symm hij)] at hj; cases hj
  · rw [h i h5] at hi; cases hi

theorem witness_EveryStepKeepsTheTableLaws :
    (sweeping .firing sweep).PoolLaw ∧ (sweeping .firing sweep).PortsLaw ∧ (sweeping .firing sweep).LiveLaw ∧
      ∃ t, step (sweeping .firing sweep) = .next t :=
  ⟨by unfold State.PoolLaw; decide +kernel, sweeping_ports _ _, by unfold State.LiveLaw; decide +kernel, _, rfl⟩

theorem witness_EveryStepKeepsTheIntakeLaw :
    (receiving 2 (shot false) (sweeping .firing sweep)).IntakeLaw ∧
      ∃ t, step (receiving 2 (shot false) (sweeping .firing sweep)) = .next t :=
  ⟨by unfold State.IntakeLaw; decide +kernel, _, rfl⟩

theorem witness_EveryStepKeepsTheConditionLaws :
    (rechecking [⟨5, .confirm⟩] (based planned)).RecheckLaw ∧ (based planned).ConditionLaw ∧
      (based planned).FaultedLaw ∧ ∃ t, step (rechecking [⟨5, .confirm⟩] (based planned)) = .next t :=
  ⟨by unfold State.RecheckLaw; decide +kernel, by unfold State.ConditionLaw ConditionEntry.Law; decide +kernel,
    by unfold State.FaultedLaw; decide +kernel, _, rfl⟩

theorem witness_EveryStepKeepsTheCycleLaw :
    (cycling 1 planned).CycleLaw ∧ (cycling 1 planned).plan.active.isSome = true ∧
      ∃ t, step (cycling 1 planned) = .next t :=
  ⟨by unfold State.CycleLaw; decide +kernel, by decide +kernel, _, rfl⟩

theorem witness_EveryStepKeepsTheSlotsLaw :
    (sweeping .firing sweep).SlotsLaw ∧ ∃ t, step (sweeping .firing sweep) = .next t := by
  refine ⟨⟨by decide +kernel, by decide +kernel, fun n h => ?_, fun r h => ?_⟩, _, rfl⟩
  · cases h; rfl
  · cases h

theorem witness_EveryStepKeepsTheFormLaws :
    (linkBusy 4).QueueLaw ∧ (summing 254).SumsLaw ∧ ∃ t, step (linkBusy 4) = .next t :=
  ⟨by unfold State.QueueLaw; decide +kernel, fun n => by cases n <;> decide +kernel, _, rfl⟩

end Sys2Proof.Tests
end

/-! Proofs of the statements about the sweep plan, the sweep groups and the tables read whole: how a taken command is
answered, how an operand byte is read, and what the pairs of GROUP_STAGE do to a set of group settings. -/

namespace Sys2Proof.Machine

/-! ### The answer of a taken command -/

/-- A command taken at once is answered as its owner performs it; what holds of the owner's state under any link holds of
the answered state, for the answer touches the link alone (R169, R171). -/
theorem answersWith_of_perform {i : Instr} {tag : Byte} {c : LinkCommand} {s d : State} {st : Status} {res : Results}
    {P : State → Prop} (hi : i.asLink = some (tag, c)) (hs : s.linkFree = true)
    (hd : s.perform tag c = { state := d, status := st, results := res }) (hP : ∀ l, P (d.withLink l)) :
    AnswersWith i s st res P := by
  have hlink : d.link = s.link := by simpa [hd] using s.perform_link tag c
  refine ⟨_, tag, c, hi, exec_shelf hi s, ?_, ?_⟩
  all_goals rw [State.receive_free hs, State.runCommand, State.answer_grant, hd]
  · exact hP _
  · cases h : s.link.transmitter <;> simp [Answered, hlink, h]

theorem answers_of_perform {i : Instr} {tag : Byte} {c : LinkCommand} {s d : State} {st : Status} {res : Results}
    (hi : i.asLink = some (tag, c)) (hs : s.linkFree = true)
    (hd : s.perform tag c = { state := d, status := st, results := res }) : Answers i s d st res :=
  answersWith_of_perform hi hs hd fun _ => rfl

theorem refuses_of_perform {i : Instr} {tag : Byte} {c : LinkCommand} {s : State} {st : Status}
    (hi : i.asLink = some (tag, c)) (hs : s.linkFree = true) (hd : s.perform tag c = s.refuse st) : Refuses i s st :=
  answers_of_perform hi hs hd

/-! ### Operands -/

theorem belowOf_eq_some {n k : Nat} {x : Fin n} : belowOf n k = some x ↔ x.val = k := by
  unfold belowOf
  split
  next h => simp [Fin.ext_iff, eq_comm]
  next h => simp; omega

theorem belowOf_eq_none {n k : Nat} : belowOf n k = none ↔ n ≤ k := by
  simp [belowOf]

theorem belowOf_isSome {n k : Nat} : (belowOf n k).isSome = true ↔ k < n := by
  simp [← Option.ne_none_iff_isSome, belowOf_eq_none]

theorem spanOf_eq_some {b : Byte} {x : Span} : spanOf b = some x ↔ x.val = b.toNat :=
  belowOf_eq_some

theorem spanOf_eq_none {b : Byte} : spanOf b = none ↔ 192 ≤ b.toNat :=
  belowOf_eq_none

theorem groupOf_eq_some {b : Byte} {x : GroupNo} : groupOf b = some x ↔ x.val = b.toNat :=
  belowOf_eq_some

theorem groupOf_eq_none {b : Byte} : groupOf b = none ↔ 8 ≤ b.toNat :=
  belowOf_eq_none

theorem profileOf_eq_some {b : Byte} {x : ProfileNo} : profileOf b = some x ↔ x.val = b.toNat :=
  belowOf_eq_some

theorem profileOf_eq_none {b : Byte} : profileOf b = none ↔ 8 ≤ b.toNat :=
  belowOf_eq_none

theorem keepIf_eq_some {α : Type} {c : Bool} {x y : α} : keepIf c x = some y ↔ c = true ∧ x = y := by
  cases c <;> simp [keepIf]

theorem keepIf_isSome {α : Type} {c : Bool} {x : α} : (keepIf c x).isSome = true ↔ c = true := by
  cases c <;> simp [keepIf]

theorem within_iff {lo hi n : Nat} : within lo hi n = true ↔ lo ≤ n ∧ n ≤ hi := by
  simp [within]

theorem inRange_some {α : Type} [LE α] {lo hi v : α} : InRange (some (lo, hi)) v ↔ lo ≤ v ∧ v ≤ hi := by
  simp [InRange]

theorem not_inRange_none {α : Type} [LE α] {v : α} : ¬InRange none v := by
  simp [InRange]

/-! ### PLAN_SEEK -/

theorem State.planSeek_of_range (s : State) {index : Byte} (h : 192 ≤ index.toNat) :
    s.planSeek index = s.refuse .range := by
  simp [State.planSeek, spanOf_eq_none.2 h]

theorem State.planSeek_of_val (s : State) {index : Byte} {x : Span} (h : x.val = index.toNat) :
    s.planSeek index =
      if s.window.state = .closed then (s.withPlan { s.plan with cursor := x }).ok else s.refuse .busy := by
  simp [State.planSeek, spanOf_eq_some.2 h]

/-- Settles O12: the number is read first (RANGE), and the window's state alone decides between BUSY and the write. -/
theorem planSeekSetsTheCursorWhileClosed : Obligations.PlanSeekSetsTheCursorWhileClosed := by
  intro tag index s hs
  refine ⟨fun hr => refuses_of_perform rfl hs (s.planSeek_of_range hr), fun x hx => ⟨fun hw => ?_, fun hw => ?_⟩⟩
  · have hopen : s.window.state ≠ .closed := by rcases hw with hw | hw <;> simp [hw]
    exact refuses_of_perform rfl hs ((s.planSeek_of_val hx).trans (if_neg hopen))
  · exact answers_of_perform rfl hs ((s.planSeek_of_val hx).trans (if_pos hw))

/-! ### The reads -/

section Reads

variable (s : State) {x : Byte}

theorem State.planRead_of_range (h : 192 ≤ x.toNat) : s.planRead x = s.refuse .range := by
  simp [State.planRead, spanOf_eq_none.2 h]

theorem State.planRead_of_val {sp : Span} (h : sp.val = x.toNat) :
    s.planRead x = s.okWith (.plan (s.entry sp) s.plan.cursor (s.plan.active.map (·.number))) := by
  simp [State.planRead, spanOf_eq_some.2 h]

theorem State.baselineRead_of_range (h : 192 ≤ x.toNat) : s.baselineRead x = s.refuse .range := by
  simp [State.baselineRead, spanOf_eq_none.2 h]

theorem State.baselineRead_of_val {sp : Span} (h : sp.val = x.toNat) :
    s.baselineRead x = s.okWith (.baseline (s.slot sp) s.baselines.poolFree) := by
  simp [State.baselineRead, spanOf_eq_some.2 h]

theorem State.groupRead_of_range (h : 8 ≤ x.toNat) : s.groupRead x = s.refuse .range := by
  simp [State.groupRead, groupOf_eq_none.2 h]

theorem State.groupRead_of_val {g : GroupNo} (h : g.val = x.toNat) :
    s.groupRead x = s.okWith (.group (s.group g)) := by
  simp [State.groupRead, groupOf_eq_some.2 h]

theorem State.profileRead_of_range (h : 8 ≤ x.toNat) : s.profileRead x = s.refuse .range := by
  simp [State.profileRead, profileOf_eq_none.2 h]

theorem State.profileRead_of_val {p : ProfileNo} (h : p.val = x.toNat) :
    s.profileRead x = s.okWith (.profile (s.profile p)) := by
  simp [State.profileRead, profileOf_eq_some.2 h]

end Reads

/-- Settles O32: each read turns on its number alone, and its owner's state is the state before it. -/
theorem readsAnswerTheTables : Obligations.ReadsAnswerTheTables := by
  intro tag x s hs
  refine ⟨fun h => ⟨?plan, ?baseline⟩, fun h => ⟨?group, ?profile⟩, fun sp h => ⟨?planTable, ?baselineTable⟩,
    fun g h => ?groupTable, fun p h => ?profileTable⟩
  case plan => exact refuses_of_perform rfl hs (s.planRead_of_range h)
  case baseline => exact refuses_of_perform rfl hs (s.baselineRead_of_range h)
  case group => exact refuses_of_perform rfl hs (s.groupRead_of_range h)
  case profile => exact refuses_of_perform rfl hs (s.profileRead_of_range h)
  case planTable => exact answers_of_perform rfl hs (s.planRead_of_val h)
  case baselineTable => exact answers_of_perform rfl hs (s.baselineRead_of_val h)
  case groupTable => exact answers_of_perform rfl hs (s.groupRead_of_val h)
  case profileTable => exact answers_of_perform rfl hs (s.profileRead_of_val h)

/-! ### GROUP_STAGE -/

/-- A pair is accepted exactly in the range of its field, whatever the set it is written to (R16, section 1.4). -/
theorem stageField_isSome (g : GroupSettings) (ident value : Nat) :
    (stageField g ident value).isSome = true ↔ InRange (stageRange ident) value := by
  unfold stageField stageRange
  split
  all_goals
    simp [belowOf_isSome, keepIf_isSome, within_iff, inRange_some, not_inRange_none, Nat.lt_succ_iff]

/-- An accepted pair writes its field and no other one (R16). -/
theorem stageField_field {g g' : GroupSettings} {ident value : Nat} (h : stageField g ident value = some g') {k : Nat}
    (hk : k < 9) : g'.field k = if ident = k then value else g.field k := by
  unfold stageField at h
  split at h
  case h_1 | h_2 | h_9 =>
    obtain ⟨x, hx, rfl⟩ := Option.map_eq_some_iff.1 h
    obtain rfl := belowOf_eq_some.1 hx
    interval_cases k <;> rfl
  case h_10 => cases h
  all_goals
    obtain ⟨-, rfl⟩ := keepIf_eq_some.1 h
    interval_cases k <;> rfl

/-- The pairs as the numbers that `InRange` and `lastOf` speak of. -/
def pairValues (pairs : List (Byte × Word)) : List (Nat × Nat) :=
  pairs.map fun p => (p.1.toNat, p.2.toNat)

/-- A list of pairs is accepted exactly when each of them is in range: no pair's check rests on an earlier one (R16). -/
theorem stageFields_isSome (g : GroupSettings) (pairs : List (Byte × Word)) :
    (stageFields g pairs).isSome = true ↔ ∀ v ∈ pairValues pairs, InRange (stageRange v.1) v.2 := by
  induction pairs generalizing g with
  | nil => simp [stageFields, pairValues]
  | cons p rest ih =>
    have hcons : (∀ v ∈ pairValues (p :: rest), InRange (stageRange v.1) v.2) ↔
        (stageField g p.1.toNat p.2.toNat).isSome = true ∧
          ∀ v ∈ pairValues rest, InRange (stageRange v.1) v.2 := by
      rw [stageField_isSome]
      exact List.forall_mem_cons
    rw [hcons]
    cases h : stageField g p.1.toNat p.2.toNat with
    | none => simp [stageFields, h]
    | some g' => simpa [stageFields, h] using ih g'

/-- Accepted pairs leave in each field the value of the last pair that names it (R16). -/
theorem stageFields_field {g g' : GroupSettings} {pairs : List (Byte × Word)} (h : stageFields g pairs = some g')
    {k : Nat} (hk : k < 9) : g'.field k = lastOf k (g.field k) (pairValues pairs) := by
  induction pairs generalizing g with
  | nil =>
    obtain rfl : g = g' := by simpa [stageFields] using h
    rfl
  | cons p rest ih =>
    cases hp : stageField g p.1.toNat p.2.toNat with
    | none => simp [stageFields, hp] at h
    | some g₁ =>
      have hrest : stageFields g₁ rest = some g' := by simpa [stageFields, hp] using h
      calc g'.field k = lastOf k (g₁.field k) (pairValues rest) := ih hrest
        _ = lastOf k (if p.1.toNat = k then p.2.toNat else g.field k) (pairValues rest) := by
          rw [stageField_field hp hk]
        _ = lastOf k (g.field k) (pairValues (p :: rest)) := rfl

/-- The operands of GROUP_STAGE that pass its checks, the group number apart: 1 to 9 pairs, each in range (R16). -/
def StagePairsPass (pairs : List (Byte × Word)) : Prop :=
  1 ≤ pairs.length ∧ pairs.length ≤ 9 ∧ ∀ v ∈ pairValues pairs, InRange (stageRange v.1) v.2

theorem State.groupStage_of_range (s : State) {group : Byte} {pairs : List (Byte × Word)}
    (h : 8 ≤ group.toNat ∨ ¬StagePairsPass pairs) : s.groupStage group pairs = s.refuse .range := by
  unfold State.groupStage
  split
  next => rfl
  next g hg =>
    have hlt : group.toNat < 8 := (groupOf_eq_some.1 hg) ▸ g.isLt
    have hpairs : ¬StagePairsPass pairs := h.resolve_left (by omega)
    split
    next hn =>
      obtain ⟨hlo, hhi⟩ := within_iff.1 hn
      split
      next x hx =>
        have hin := (stageFields_isSome (s.group g).pending pairs).1 (by simp [hx])
        exact absurd ⟨hlo, hhi, hin⟩ hpairs
      next => rfl
    next => rfl

theorem State.groupStage_of_pass (s : State) {group : Byte} {pairs : List (Byte × Word)} {g : GroupNo}
    (hg : g.val = group.toNat) (h : StagePairsPass pairs) :
    ∃ x, stageFields (s.group g).pending pairs = some x ∧
      s.groupStage group pairs = (s.setGroup g { s.group g with pending := x, staged := true }).ok := by
  obtain ⟨hlo, hhi, hin⟩ := h
  obtain ⟨x, hx⟩ := Option.isSome_iff_exists.1 ((stageFields_isSome (s.group g).pending pairs).2 hin)
  refine ⟨x, hx, ?_⟩
  simp [State.groupStage, groupOf_eq_some.2 hg, within_iff.2 ⟨hlo, hhi⟩, hx]

@[simp] theorem State.group_withLink (s : State) (l : Link) (g : GroupNo) : (s.withLink l).group g = s.group g :=
  rfl

/-- Settles O13: the pairs are accepted or refused by their ranges alone, so the check comes before the first write, and
the set they leave, by induction on the pairs, is written to the pending set of the group. -/
theorem groupStageWritesThePendingSet : Obligations.GroupStageWritesThePendingSet := by
  intro tag group pairs s hs
  refine ⟨fun hr => refuses_of_perform rfl hs (s.groupStage_of_range hr), fun g hg hgood => ?_⟩
  obtain ⟨x, hx, hd⟩ := s.groupStage_of_pass hg hgood
  refine answersWith_of_perform rfl hs hd fun l => ⟨fun k hk => ?_, ?_, ?_, fun j hj => ?_, rfl⟩
  · rw [State.group_withLink, State.group_setGroup]
    exact stageFields_field hx hk
  · simp
  · simp
  · simp [State.group_setGroup_ne s hj]

end Sys2Proof.Machine

/-! Proofs of the statements about the baseline store: how the operands of BASELINE_LOAD are read as a record, what its
structural checks say of the operands, and what a set-back changes. -/

namespace Sys2Proof.Machine

/-! ### The record of BASELINE_LOAD -/

theorem classOf_eq_some {b : Byte} {x : PulseClass} : classOf b = some x ↔ x.val = b.toNat :=
  belowOf_eq_some

/-- An end kind is read from 0 to 2, as the zone record names it (R177). -/
theorem endKindOf_eq_some {z : ZoneWords} {k : EndKind} :
    endKindOf z.endKind = some k ↔ z.endKind.toNat ≤ 2 ∧ (zoneRecord z).kind = k := by
  unfold endKindOf zoneRecord
  by_cases h0 : z.endKind = 0
  · simp [h0]
  by_cases h1 : z.endKind = 1
  · simp [h1]
  by_cases h2 : z.endKind = 2
  · simp [h2]
  have habove : ¬z.endKind.toNat ≤ 2 := by bv_omega
  simp only [h0, h1, h2, habove, if_false, false_and, reduceCtorEq]

@[simp] theorem zoneRecord_endBin (z : ZoneWords) : (zoneRecord z).endBin = z.endBin.toNat := rfl

/-- Among the end kinds in range, 2 alone stands for END (R177). -/
theorem zoneRecord_kind {z : ZoneWords} (h : z.endKind.toNat ≤ 2) :
    (zoneRecord z).kind = .fibreEnd ↔ z.endKind = 2 := by
  have h2 : z.endKind ≠ 0 → z.endKind ≠ 1 → z.endKind = 2 := by bv_omega
  unfold zoneRecord
  by_cases h0 : z.endKind = 0
  · simp [h0]
  by_cases h1 : z.endKind = 1
  · simp [h1]
  simp [h2 h0 h1]

/-- A zone is accepted exactly in the ranges of its end bin and its end kind, as its zone record (R101). -/
theorem zoneOf_eq_some {z : ZoneWords} {x : Zone} :
    zoneOf z = some x ↔ (z.endBin.toNat ≤ 16383 ∧ z.endKind.toNat ≤ 2) ∧ zoneRecord z = x := by
  unfold zoneOf
  cases hk : endKindOf z.endKind with
  | none =>
    have hnot : ¬z.endKind.toNat ≤ 2 := fun h => by simp [endKindOf_eq_some.2 ⟨h, rfl⟩] at hk
    simp [hnot]
  | some k =>
    obtain ⟨hle, rfl⟩ := endKindOf_eq_some.1 hk
    simp only [keepIf_eq_some, within_iff, Nat.zero_le, true_and, hle, and_true]
    rfl

/-- The zones are accepted exactly when each of them is, as their zone records in order (R101). -/
theorem zonesIn_eq_some {zones : List ZoneWords} {xs : List Zone} :
    zonesIn zones = some xs ↔
      (∀ z ∈ zones, z.endBin.toNat ≤ 16383 ∧ z.endKind.toNat ≤ 2) ∧ zones.map zoneRecord = xs := by
  induction zones generalizing xs with
  | nil => simp [zonesIn]
  | cons z rest ih =>
    rw [List.forall_mem_cons, List.map_cons]
    unfold zonesIn
    split
    next x ys hx hys =>
      obtain ⟨hz, rfl⟩ := zoneOf_eq_some.1 hx
      obtain ⟨hrest, rfl⟩ := ih.1 hys
      exact ⟨fun h => ⟨⟨hz, hrest⟩, Option.some.inj h⟩, fun h => congrArg some h.2⟩
    next hnone =>
      refine ⟨fun h => (nomatch h), fun ⟨⟨hz, hrest⟩, _⟩ => ?_⟩
      exact (hnone _ _ (zoneOf_eq_some.2 ⟨hz, rfl⟩) (ih.2 ⟨hrest, rfl⟩)).elim

/-- The record that the operands of BASELINE_LOAD stand for (R177, R178). -/
def loadRecord (k : PulseClass) (binLength : Byte) (launch endBin : Half) (zones : List ZoneWords) : Baseline :=
  { cls := k, binLength := binLength.toNat, launch := launch.toNat, endBin := endBin.toNat,
    zones := zones.map zoneRecord }

theorem LoadInRange.zones {span cls binLength : Byte} {launch endBin : Half} {zones : List ZoneWords}
    (h : LoadInRange span cls binLength launch endBin zones) :
    ∀ z ∈ zones, z.endBin.toNat ≤ 16383 ∧ z.endKind.toNat ≤ 2 := by
  obtain ⟨_, _, _, _, _, _, _, _, hzones⟩ := h
  exact hzones

/-- With a span in range, a record is read exactly from operands that pass the range checks (R101). -/
theorem baselineOf_eq_some {span cls binLength : Byte} {launch endBin : Half} {zones : List ZoneWords} {sp : Span}
    {b : Baseline} (hsp : sp.val = span.toNat) :
    baselineOf cls binLength launch endBin zones = some b ↔
      LoadInRange span cls binLength launch endBin zones ∧
        ∃ k : PulseClass, k.val = cls.toNat ∧ loadRecord k binLength launch endBin zones = b := by
  unfold baselineOf
  split
  next k xs hk hxs =>
    obtain ⟨hzones, rfl⟩ := zonesIn_eq_some.1 hxs
    have hcls := classOf_eq_some.1 hk
    have hunique : ∀ j : PulseClass, j.val = cls.toNat ↔ j = k := fun j => by rw [← hcls, Fin.ext_iff]
    have hspan : span.toNat ≤ 191 := by omega
    have hclass : cls.toNat ≤ 5 := by omega
    have hfields : LoadInRange span cls binLength launch endBin zones ↔
        (((1 ≤ binLength.toNat ∧ binLength.toNat ≤ 100) ∧ launch.toNat ≤ 16382) ∧ endBin.toNat ≤ 16383) ∧
          1 ≤ zones.length ∧ zones.length ≤ 24 := by
      simp only [LoadInRange, hspan, hclass, true_and, and_assoc, and_true, iff_true_intro hzones]
    simp [hfields, keepIf_eq_some, within_iff, hunique, loadRecord]
  next hnone =>
    refine ⟨fun h => (nomatch h), fun ⟨hrange, k, hk, _⟩ => ?_⟩
    exact (hnone _ _ (classOf_eq_some.2 hk) (zonesIn_eq_some.2 ⟨hrange.zones, rfl⟩)).elim

/-! ### The structural checks -/

/-- The end bins rise strictly from above the launch bin (R102). -/
theorem endsRise_iff {before : Nat} {zs : List Zone} :
    endsRise before zs = true ↔ (before :: zs.map (·.endBin)).Pairwise (· < ·) := by
  rw [← List.isChain_iff_pairwise]
  induction zs generalizing before with
  | nil => simp [endsRise]
  | cons z rest ih => simp [endsRise, ih]

/-- The last zone, and it alone, has end kind END, and ends at E (R102). -/
theorem endsAt_zoneRecords {e : Half} {zones : List ZoneWords} (h : ∀ z ∈ zones, z.endKind.toNat ≤ 2) :
    endsAt e.toNat (zones.map zoneRecord) = true ↔
      (∃ z, zones.getLast? = some z ∧ z.endBin = e ∧ z.endKind = 2) ∧ ∀ z ∈ zones.dropLast, z.endKind ≠ 2 := by
  induction zones with
  | nil => simp [endsAt]
  | cons z rest ih =>
    rw [List.forall_mem_cons] at h
    cases rest with
    | nil => simp [endsAt, zoneRecord_kind h.1, BitVec.toNat_inj]
    | cons y rest =>
      have hrest := ih h.2
      simp only [List.map_cons] at hrest
      simp [endsAt, hrest, zoneRecord_kind h.1, and_left_comm]

/-- Operands in range pass the structural checks exactly when their record does (R102). -/
theorem loadRecord_structured {span cls binLength : Byte} {launch endBin : Half} {zones : List ZoneWords}
    (k : PulseClass) (h : LoadInRange span cls binLength launch endBin zones) :
    (loadRecord k binLength launch endBin zones).structured = true ↔ LoadStructured launch endBin zones := by
  have hends : (zones.map zoneRecord).map (·.endBin) = zones.map (·.endBin.toNat) := by simp
  simp only [Baseline.structured, loadRecord, Bool.and_eq_true, endsRise_iff, hends,
    endsAt_zoneRecords fun z hz => (h.zones z hz).2, LoadStructured]

/-! ### The set-back -/

section SetBack

variable (s : State) (sp : Span)

/-- The span's entry is set back with its last fields kept, and its entry leaves the re-check queue (R105, R145). -/
theorem State.setBack_conditions :
    (s.setBack sp).conditions =
      { entries := tableSet s.conditions.entries sp (s.condition sp).setBack,
        recheck := s.conditions.recheck.filter fun e => e.span != sp } := by
  have hentries : (s.setBack sp).conditions.entries = tableSet s.conditions.entries sp (s.condition sp).setBack := by
    simp [State.setBack, State.setCondition]
  have hrecheck : (s.setBack sp).conditions.recheck = s.conditions.recheck.filter fun e => e.span != sp := by
    simp [State.setBack, State.removeRecheck_recheck, State.setCondition]
  rw [← hentries, ← hrecheck]

/-- A span that leaves the queue makes the engine choose (R149). -/
theorem State.setBack_chosen (h : s.queued sp = true) : Chosen s (s.setBack sp) := by
  have hq : (s.setCondition sp (s.condition sp).setBack).queued sp = true := h
  rw [State.setBack, State.removeRecheck, if_pos hq]
  exact EngineFollows.chosen (.of_eq (by simp [State.setRecheck]))

/-- A span not queued is set back unseen by the engine. -/
theorem State.setBack_engine (h : s.queued sp = false) : (s.setBack sp).engine = s.engine := by
  have hq : ¬(s.setCondition sp (s.condition sp).setBack).queued sp = true := by
    rw [Bool.not_eq_true]
    exact h
  rw [State.setBack, State.removeRecheck, if_neg hq, State.setCondition, State.withConditions_engine]

/-- A set-back changes the conditions and the engine alone. -/
theorem State.setBack_eq :
    s.setBack sp = { s with conditions := (s.setBack sp).conditions, engine := (s.setBack sp).engine } := by
  apply State.ext_fields <;> simp

end SetBack

/-! ### BASELINE_LOAD -/

section Load

variable (s : State) {span cls binLength : Byte} {launch endBin : Half} {zones : List ZoneWords}

/-- Operands that fail a check of R101 or of R102 are refused with RANGE. -/
theorem State.baselineLoad_of_range
    (h : ¬(LoadInRange span cls binLength launch endBin zones ∧ LoadStructured launch endBin zones)) :
    s.baselineLoad span cls binLength launch endBin zones = s.refuse .range := by
  unfold State.baselineLoad
  split
  next sp b hsp hb =>
    obtain ⟨hrange, k, -, rfl⟩ := (baselineOf_eq_some (spanOf_eq_some.1 hsp)).1 hb
    have hnot : (loadRecord k binLength launch endBin zones).structured = false := by
      rw [← Bool.not_eq_true, loadRecord_structured k hrange]
      exact fun hs => h ⟨hrange, hs⟩
    simp [hnot]
  next => rfl

/-- Operands that pass the checks: the pool alone decides between NO_SPACE and the new record (R103, R104). -/
theorem State.baselineLoad_of_good {sp : Span} {k : PulseClass} (hsp : sp.val = span.toNat) (hk : k.val = cls.toNat)
    (hrange : LoadInRange span cls binLength launch endBin zones) (hstruct : LoadStructured launch endBin zones) :
    s.baselineLoad span cls binLength launch endBin zones =
      if s.baselines.poolFree + (s.slot sp).held < zones.length then s.refuse .noSpace
      else
        ((s.setSlot sp
          { record := some (loadRecord k binLength launch endBin zones), generation := (s.slot sp).generation + 1 }
          (s.baselines.poolFree + (s.slot sp).held - zones.length)).setBack sp).ok := by
  have hb := (baselineOf_eq_some hsp).2 ⟨hrange, k, hk, rfl⟩
  have hlength : (loadRecord k binLength launch endBin zones).zones.length = zones.length := List.length_map _
  simp [State.baselineLoad, spanOf_eq_some.2 hsp, hb, (loadRecord_structured k hrange).2 hstruct, hlength, nextByte]

end Load

/-- Settles O29: the checks are those of the record that the operands stand for, the pool decides next, and the new record
is a write of the slot followed by a set-back of the span. -/
theorem baselineLoadReplacesTheRecord : Obligations.BaselineLoadReplacesTheRecord := by
  intro tag span cls binLength launch endBin zones s hs
  refine ⟨fun hbad => refuses_of_perform rfl hs (s.baselineLoad_of_range hbad), ?_⟩
  intro sp k ⟨hrange, hstruct⟩ hsp hk
  have hload := s.baselineLoad_of_good hsp hk hrange hstruct
  refine ⟨fun hfull => refuses_of_perform rfl hs (hload.trans (if_pos hfull)), fun hroom => ?_⟩
  refine answersWith_of_perform rfl hs (hload.trans (if_neg (Nat.not_lt.2 hroom))) fun l => ?_
  set u := s.setSlot sp _ _ with hu
  refine ⟨?slot, u.setBack_conditions sp, u.setBack_chosen sp, u.setBack_engine sp, ?rest⟩
  case slot => simp [hu, State.setSlot, loadRecord]
  case rest =>
    rw [u.setBack_eq sp, hu]
    rfl

end Sys2Proof.Machine

/-! Proof of the statement about CONDITION_READ: what the count along the re-check queue answers for a span. -/

namespace Sys2Proof.Machine

/-! ### A span's place in the re-check queue -/

/-- Entries of other spans are counted and passed by. -/
theorem placeIn_append {sp : Span} {before : List RecheckEntry} (h : ∀ x ∈ before, x.span ≠ sp) (n : Nat)
    (rest : List RecheckEntry) : placeIn sp n (before ++ rest) = placeIn sp (n + before.length) rest := by
  induction before generalizing n with
  | nil => rfl
  | cons x before ih =>
    rw [List.forall_mem_cons] at h
    obtain ⟨hx, hbefore⟩ := h
    calc placeIn sp n (x :: before ++ rest) = placeIn sp (n + 1) (before ++ rest) := if_neg hx
      _ = placeIn sp (n + 1 + before.length) rest := ih hbefore (n + 1)
      _ = placeIn sp (n + (x :: before).length) rest := by rw [List.length_cons, Nat.add_right_comm, Nat.add_assoc]

/-- A span with no entry has no place. -/
theorem placeIn_eq_none {sp : Span} {q : List RecheckEntry} (h : ∀ x ∈ q, x.span ≠ sp) (n : Nat) :
    placeIn sp n q = none := by
  simpa [placeIn] using placeIn_append h n []

/-- A span's first entry decides: its place is the count of the entries before it, its reason its own (R144). -/
theorem placeIn_eq_some {sp : Span} {before : List RecheckEntry} (h : ∀ x ∈ before, x.span ≠ sp) (n : Nat)
    {e : RecheckEntry} (he : e.span = sp) (after : List RecheckEntry) :
    placeIn sp n (before ++ e :: after) = some (n + before.length, e.reason) :=
  (placeIn_append h n (e :: after)).trans (if_pos he)

/-! ### CONDITION_READ -/

section ConditionRead

variable (s : State) {span : Byte}

theorem State.conditionRead_of_range (h : 192 ≤ span.toNat) : s.conditionRead span = s.refuse .range := by
  simp [State.conditionRead, spanOf_eq_none.2 h]

theorem State.conditionRead_of_val {sp : Span} (h : sp.val = span.toNat) :
    s.conditionRead span =
      s.okWith (.condition (s.condition sp) (placeIn sp 1 s.conditions.recheck) s.conditions.recheck.length) := by
  simp [State.conditionRead, spanOf_eq_some.2 h]

theorem State.span_ne_of_not_queued {sp : Span} (h : s.queued sp = false) :
    ∀ e ∈ s.conditions.recheck, e.span ≠ sp := by
  intro e he hsp
  have hqueued : s.queued sp = true := State.queued_iff.2 ⟨e, he, hsp⟩
  exact Bool.false_ne_true (h.symm.trans hqueued)

end ConditionRead

/-- Settles O33: the span number alone decides between RANGE and the answer, and the place it answers is the count from 1
along the queue, which passes by the entries of other spans and ends at the span's own. -/
theorem conditionReadAnswersTheEntry : Obligations.ConditionReadAnswersTheEntry := by
  intro tag span s hs q
  refine ⟨fun hr => refuses_of_perform rfl hs (s.conditionRead_of_range hr), fun sp hsp => ?_⟩
  have hanswers : Answers (.conditionRead tag span) s s .ok (.condition (s.condition sp) (placeIn sp 1 q) q.length) :=
    answers_of_perform rfl hs (s.conditionRead_of_val hsp)
  refine ⟨fun habsent => ?_, fun before after e hq he hbefore => ?_⟩
  · have hplace : placeIn sp 1 q = none := placeIn_eq_none (s.span_ne_of_not_queued habsent) 1
    rwa [hplace] at hanswers
  · have hplace : placeIn sp 1 q = some (before.length + 1, e.reason) := by
      rw [hq, placeIn_eq_some hbefore 1 he after, Nat.add_comm]
    rwa [hplace] at hanswers

end Sys2Proof.Machine

/-! What a step of the part can be made of, said once for all laws: a change of the link, a command carried out, records
taken by a REPORT frame, or one event of a block. A predicate that each of these keeps is kept by every step. -/

namespace Sys2Proof.Machine

/-! ### The events, block by block -/

/-- An event at the selector or the acquisition port (chapters 3 and 4). -/
inductive ShotEvent (s : State) : State → Prop
  | selectorSet (port : Byte) : ShotEvent s (s.selectorSet port)
  | selectorFault : ShotEvent s s.selectorFault
  | selectorExpires : ShotEvent s s.selectorExpires
  | settleExpires : ShotEvent s s.settleExpires
  | hotHoldExpires : ShotEvent s s.hotHoldExpires
  | headerArrives (tag : Byte) (bins : Half) : ShotEvent s (s.headerArrives tag bins)
  | sampleArrives (level : Half) : ShotEvent s (s.sampleArrives level)
  | trailerArrives (saturated : Bool) : ShotEvent s (s.trailerArrives saturated)
  | statusArrives (temperature : Int) : ShotEvent s (s.statusArrives temperature)
  | shotExpires (tag : Byte) : ShotEvent s (s.shotExpires tag)
  | sumSample : ShotEvent s s.sumSample
  | completeAccumulation : ShotEvent s s.completeAccumulation

/-- An event at the window clock (chapter 2). -/
inductive ClockEvent (s : State) : State → Prop
  | refclkEdge : ClockEvent s s.refclkEdge
  | secondEvent : ClockEvent s s.secondEvent
  | referenceLost : ClockEvent s s.referenceLost
  | referencePresent : ClockEvent s s.referencePresent
  | graceExpires : ClockEvent s s.graceExpires

/-- An event of the life of a sweep (R39, R51, R55, R131, R132). -/
inductive SweepEvent (s : State) : State → Prop
  | sweepStart : SweepEvent s s.sweepStart
  | sweepComplete : SweepEvent s s.sweepComplete
  | closingActions : SweepEvent s s.closingActions
  | analysisCompletes : SweepEvent s s.analysisCompletes
  | reanalysisCompletes : SweepEvent s s.reanalysisCompletes

/-- An event at the trace banks (R87, R89, R90, R116). -/
inductive BankEvent (s : State) : State → Prop
  | takeReady : BankEvent s s.takeReady
  | holdExpires (n : BankName) : BankEvent s (s.holdExpires n)
  | exportBegins (f : ExportFrame) : BankEvent s (s.exportBegins f)
  | exportSent (f : ExportFrame) : BankEvent s (s.exportSent f)

/-- A reset takes effect (R175, R176). -/
inductive ResetEvent (s : State) : State → Prop
  | hardReset (cause : ResetCause) : ResetEvent s (s.hardReset cause)
  | resetEffect (k : ResetCommand) : ResetEvent s (s.resetEffect k)

/-- The records of a REPORT frame leave the queue, under the next sequence (R156). -/
def State.reportTaken (s : State) : State :=
  (s.withReports { s.reports with sequence := nextByte s.reports.sequence }).takeRecords Config.reportRecords

/-! ### The start of a sweep, by its source -/

/-- A source of a sweep has been taken (R38, R39): the on-demand slot, the head of the re-check queue, or a span of the
plan, after the wrap of the cycle where the first scan ends with one (R7). -/
inductive SourceTaken (s : State) : State → Prop
  | demand : SourceTaken s (s.withEngine { s.engine with onDemand := none })
  | queue (e : RecheckEntry) (rest : List RecheckEntry) : s.conditions.recheck = e :: rest →
    SourceTaken s (s.setRecheck rest)
  | plan (sp : Span) : SourceTaken s (s.takeAt sp)
  | wrap (c : CycleRecord) (sp : Span) : SourceTaken s ((s.wrapCycle c).takeAt sp)

theorem State.takePlanSource_taken {s t : State} {x : Source} (h : s.takePlanSource = some (t, x)) :
    SourceTaken s t := by
  have span : ∀ {u : State} {sp : Span}, s.takePlanSpan = some (u, sp) → SourceTaken s u := fun hu => by
    unfold State.takePlanSpan at hu
    split at hu
    next => cases hu
    next c _ =>
      split at hu
      next => cases hu; exact .plan _
      next => cases hu
      next =>
        split at hu
        next => cases hu
        next => split at hu <;> cases hu; exact .wrap c _
  unfold State.takePlanSource at h
  split at h
  next hs => cases h; exact span hs
  next => cases h

theorem State.takeSource_taken {s t : State} {x : Source} (h : s.takeSource = some (t, x)) : SourceTaken s t := by
  have planned : ∀ {b : Bool}, (if b then s.takePlanSource else none) = some (t, x) → SourceTaken s t := fun hp => by
    split at hp
    next => exact State.takePlanSource_taken hp
    next => cases hp
  unfold State.takeSource at h
  split at h
  next => cases h; exact .demand
  next =>
    unfold State.takeQueueSource at h
    split at h
    next hq =>
      split at h
      next => cases h; exact .queue _ _ hq
      next => exact planned h
    next => exact planned h

theorem State.freeBankName_free {s : State} {n : BankName} (h : s.freeBankName = some n) : (s.bank n).state = .free := by
  unfold State.freeBankName at h
  split at h
  next ha => cases h; simpa [State.bank] using ha
  next =>
    split at h
    next hb => cases h; simpa [State.bank] using hb
    next => cases h

/-- SWEEP_START (R38, R39): nothing with a sweep in flight, the choice without a source or a condition of the start, and
the sweep begun otherwise. -/
theorem State.sweepStart_cases (s : State) :
    s.sweepStart = s ∨ s.sweepStart = s.choose ∨
      ∃ t x n, s.reports.grants = true ∧ (s.bank n).state = .free ∧ SourceTaken s t ∧
        s.sweepStart = t.beginSweep x n := by
  unfold State.sweepStart
  split
  next => exact .inl rfl
  next =>
    split
    next n hgrants hfree =>
      split
      next t x hs =>
        exact .inr (.inr ⟨t, x, n, hgrants, State.freeBankName_free hfree, State.takeSource_taken hs, rfl⟩)
      next => exact .inr (.inl rfl)
    next => exact .inr (.inl rfl)

/-! ### Predicates that every part of a step keeps -/

/-- A predicate that every change a step is made of keeps. The link's changes lengthen the command queue to 4 frames at
most (R168). -/
structure KeptByParts (P : State → Prop) : Prop where
  pending : ∀ {s : State} (q : List Instr), P s → P (s.withPending q)
  link : ∀ {s : State} (l : Link), l.queue.length ≤ max s.link.queue.length 4 → P s → P (s.withLink l)
  command : ∀ {s : State} (tag : Byte) (c : LinkCommand), P s → P (s.perform tag c).state
  report : ∀ {s : State}, P s → P s.reportTaken
  shot : ∀ {s t : State}, ShotEvent s t → P s → P t
  clock : ∀ {s t : State}, ClockEvent s t → P s → P t
  sweep : ∀ {s t : State}, SweepEvent s t → P s → P t
  bank : ∀ {s t : State}, BankEvent s t → P s → P t
  reset : ∀ {s t : State}, ResetEvent s t → P s → P t

namespace KeptByParts

variable {P : State → Prop} (h : KeptByParts P) {s : State}

include h

/-- A change of the link that leaves the command queue as long as it is. -/
theorem sameQueue {l : Link} (hl : l.queue = s.link.queue) (hs : P s) : P (s.withLink l) :=
  h.link l (by rw [hl]; exact le_max_left _ _) hs

theorem grant (hs : P s) : P s.grant := by
  unfold State.grant
  split
  next => exact hs
  next =>
    split
    next r _ _ => exact h.sameQueue rfl hs
    next f _ _ => exact h.sameQueue rfl (h.bank (.exportBegins f) hs)
    next =>
      split
      next => exact h.sameQueue rfl (h.report hs)
      next => exact hs

theorem runFrame (f : CommandFrame) (hs : P s) : P (s.runFrame f) := by
  unfold State.runFrame
  split
  next c _ => exact h.sameQueue rfl (h.command f.tag c hs)
  next => exact h.sameQueue rfl hs
  next => exact h.sameQueue rfl hs

theorem dispatch (hs : P s) : P s.dispatch := by
  unfold State.dispatch
  split
  next f rest _ hq =>
    refine h.runFrame f (h.link _ ?_ hs)
    rw [hq]
    exact le_max_of_le_left (Nat.le_succ _)
  next => exact hs

theorem dispatchBehind (hs : P s) : P s.dispatchBehind := by
  unfold State.dispatchBehind
  split
  next => exact h.dispatch (h.sweep .sweepStart hs)
  next => exact hs

theorem pump (hs : P s) : P s.pump :=
  h.dispatchBehind (h.grant (h.dispatch hs))

theorem enqueue (f : CommandFrame) (hs : P s) : P (s.enqueue f) := by
  unfold State.enqueue
  split
  next hq =>
    refine h.link _ (le_max_of_le_right ?_) hs
    rw [List.length_append]
    exact hq
  next => exact h.sameQueue rfl hs

theorem receiveFrame (f : CommandFrame) (hs : P s) : P (s.receiveFrame f) := by
  unfold State.receiveFrame
  split
  next => exact h.grant (h.runFrame f hs)
  next => exact h.enqueue f hs

theorem receive (tag : Byte) (c : LinkCommand) (hs : P s) : P (s.receive tag c) := by
  unfold State.receive
  split
  next => exact h.grant (h.sameQueue rfl (h.command tag c hs))
  next => exact h.enqueue _ hs

/-- A byte changes the framer, counts a discarded frame, or completes a checked one (R166, R167). -/
theorem takeByte (b : Byte) (hs : P s) : P (s.takeByte b) := by
  have framer : ∀ x : Framer, P (s.setFramer x) := fun x => h.sameQueue rfl hs
  have discard : P ((s.withLink s.link.discard).setFramer .seek) :=
    h.sameQueue rfl (h.sameQueue (l := s.link.discard) rfl hs)
  unfold State.takeByte
  split
  next => split <;> [exact framer _; exact hs]
  next => split <;> [exact framer _; split <;> [exact hs; exact framer _]]
  next => exact framer _
  next => exact framer _
  next => exact framer _
  next =>
    unfold State.headerDone
    split <;> [exact discard; split <;> exact framer _]
  next =>
    unfold State.payloadByte
    split <;> exact framer _
  next => exact framer _
  next =>
    unfold State.checkDone
    split <;> [exact h.receiveFrame _ (framer .seek); exact discard]

theorem takeBytes (bytes : List Byte) (hs : P s) : P (s.takeBytes bytes) := by
  induction bytes generalizing s with
  | nil => exact hs
  | cons b rest ih => exact ih (h.takeByte b hs)

theorem transmitted (f : OutFrame) (hs : P s) : P (s.transmitted f) := by
  cases f with
  | response r =>
    unfold State.transmitted
    split
    next => exact h.reset (.resetEffect _) hs
    next hf => cases hf
    next => exact hs
  | exported x => exact h.bank (.exportSent x) hs
  | report q l => exact hs

theorem frameSent (hs : P s) : P s.frameSent := by
  unfold State.frameSent
  split
  next f _ => exact h.pump (h.transmitted f (h.sameQueue rfl hs))
  next => exact hs

/-- Every command keeps what its parts keep. -/
theorem exec_keeps {t : State} (i : Instr) (hs : P s) (ht : exec i s = .next t) : P t := by
  cases hi : i.asLink with
  | some x =>
    obtain ⟨tag, c⟩ := x
    rw [exec_shelf hi s] at ht
    cases ht
    exact h.receive tag c hs
  | none =>
    have next : ∀ {u : State}, exec i s = .next u → P u → P t := fun hu hp => by
      cases hu.symm.trans ht
      exact hp
    cases i with
    | unknownCommand tag payload => exact next rfl (h.receiveFrame _ hs)
    | powerOn => exact next rfl (h.reset (.hardReset _) hs)
    | resetInput => exact next rfl (h.reset (.hardReset _) hs)
    | commandFrame bytes => exact next rfl (h.takeBytes bytes hs)
    | frameSent => exact next rfl (h.frameSent hs)
    | secondEvent => exact next rfl (h.grant (h.clock .secondEvent hs))
    | referenceLost => exact next rfl (h.grant (h.clock .referenceLost hs))
    | referencePresent => exact next rfl (h.clock .referencePresent hs)
    | graceTimerExpiry => exact next rfl (h.grant (h.clock .graceExpires hs))
    | setReply port => exact next rfl (h.shot (.selectorSet port) hs)
    | faultReply => exact next rfl (h.shot .selectorFault hs)
    | selectorTimerExpiry => exact next rfl (h.shot .selectorExpires hs)
    | settleTimerExpiry => exact next rfl (h.shot .settleExpires hs)
    | hotHoldTimerExpiry => exact next rfl (h.shot .hotHoldExpires hs)
    | headerWord tag bins => exact next rfl (h.shot (.headerArrives tag bins) hs)
    | sampleWord level => exact next rfl (h.shot (.sampleArrives level) hs)
    | trailerWord saturated => exact next rfl (h.shot (.trailerArrives saturated) hs)
    | statusWord temperature => exact next rfl (h.shot (.statusArrives temperature) hs)
    | shotTimerExpiry tag => exact next rfl (h.shot (.shotExpires tag) hs)
    | sampleSummed => exact next rfl (h.shot .sumSample hs)
    | accumulationComplete => exact next rfl (h.shot .completeAccumulation hs)
    | sweepStart => exact next rfl (h.grant (h.sweep .sweepStart hs))
    | sweepComplete => exact next rfl (h.grant (h.sweep .sweepComplete hs))
    | closingActions => exact next rfl (h.grant (h.sweep .closingActions hs))
    | analysisTaking => exact next rfl (h.bank .takeReady hs)
    | analysisCompletion => exact next rfl (h.grant (h.sweep .analysisCompletes hs))
    | reanalysisCompletion => exact next rfl (h.grant (h.sweep .reanalysisCompletes hs))
    | holdTimerExpiry n => exact next rfl (h.bank (.holdExpires n) hs)
    | _ => cases hi

/-- Every step keeps what its parts keep. -/
theorem step_keeps {t : State} (hs : P s) (ht : step s = .next t) : P t := by
  unfold step at ht
  split at ht
  next =>
    cases ht
    exact h.grant (h.clock .refclkEdge hs)
  next c rest _ => exact h.exec_keeps c (h.pending rest hs) ht

end KeptByParts

end Sys2Proof.Machine

/-! The tables of the sweep plan: which operations write the entries or the groups, and the laws of the tables (R98, R1,
R15) under every step. -/

namespace Sys2Proof.Machine

/-! ### Cycles, scan and window leave the entries and the groups -/

@[simp] theorem State.startCycle_tables (s : State) :
    s.startCycle.plan.entries = s.plan.entries ∧ s.startCycle.plan.groups = s.plan.groups := by
  unfold State.startCycle
  dsimp only
  split <;> simp

@[simp] theorem State.endCycle_tables (s : State) (reason : CycleReason) (n : Nat) :
    (s.endCycle reason n).plan.entries = s.plan.entries ∧ (s.endCycle reason n).plan.groups = s.plan.groups := by
  unfold State.endCycle
  split
  next => exact ⟨rfl, rfl⟩
  next => dsimp only; split <;> simp

@[simp] theorem State.closeCycle_tables (s : State) :
    s.closeCycle.plan.entries = s.plan.entries ∧ s.closeCycle.plan.groups = s.plan.groups := by
  unfold State.closeCycle
  split <;> simp

@[simp] theorem State.countStarted_tables (s : State) (as : CountedAs) :
    (s.countStarted as).plan.entries = s.plan.entries ∧ (s.countStarted as).plan.groups = s.plan.groups := by
  unfold State.countStarted
  split <;> simp

@[simp] theorem State.countEndedEnding_tables (s : State) (n : Nat) (as : CountedAs) :
    (s.countEndedEnding n as).plan.entries = s.plan.entries ∧
      (s.countEndedEnding n as).plan.groups = s.plan.groups := by
  unfold State.countEndedEnding
  split
  next => exact ⟨rfl, rfl⟩
  next => split <;> simp

@[simp] theorem State.countEnded_tables (s : State) (cycle : Option Nat) (as : CountedAs) :
    (s.countEnded cycle as).plan.entries = s.plan.entries ∧ (s.countEnded cycle as).plan.groups = s.plan.groups := by
  unfold State.countEnded
  split
  next => exact ⟨rfl, rfl⟩
  next =>
    split
    next => split <;> simp
    next => simp

@[simp] theorem State.takeAt_tables (s : State) (sp : Span) :
    (s.takeAt sp).plan.entries = s.plan.entries ∧ (s.takeAt sp).plan.groups = s.plan.groups := by
  simp [State.takeAt]

@[simp] theorem State.wrapCycle_tables (s : State) (c : CycleRecord) :
    (s.wrapCycle c).plan.entries = s.plan.entries ∧ (s.wrapCycle c).plan.groups = s.plan.groups := by
  unfold State.wrapCycle
  dsimp only
  split <;> simp

theorem SourceTaken.tables {s t : State} (h : SourceTaken s t) :
    t.plan.entries = s.plan.entries ∧ t.plan.groups = s.plan.groups := by
  cases h <;> simp

@[simp] theorem State.beginSweep_tables (s : State) (x : Source) (n : BankName) :
    (s.beginSweep x n).plan.entries = s.plan.entries ∧ (s.beginSweep x n).plan.groups = s.plan.groups := by
  simp [State.beginSweep]

@[simp] theorem State.sweepStart_tables (s : State) :
    s.sweepStart.plan.entries = s.plan.entries ∧ s.sweepStart.plan.groups = s.plan.groups := by
  rcases s.sweepStart_cases with h | h | ⟨t, x, n, _, _, taken, h⟩ <;> rw [h]
  · exact ⟨rfl, rfl⟩
  · simp
  · simpa using taken.tables

@[simp] theorem State.openWindow_tables (s : State) (cause : EdgeCause) :
    (s.openWindow cause).plan.entries = s.plan.entries ∧ (s.openWindow cause).plan.groups = s.plan.groups := by
  unfold State.openWindow
  split <;> simp

@[simp] theorem State.leaveOpen_tables (s : State) (cause : EdgeCause) :
    (s.leaveOpen cause).plan.entries = s.plan.entries ∧ (s.leaveOpen cause).plan.groups = s.plan.groups := by
  unfold State.leaveOpen State.inFreeOrder
  split
  next => dsimp only; split <;> simp
  next => exact ⟨rfl, rfl⟩

@[simp] theorem State.evaluateMatches_tables (s : State) (cause : EdgeCause) :
    (s.evaluateMatches cause).plan.entries = s.plan.entries ∧
      (s.evaluateMatches cause).plan.groups = s.plan.groups := by
  unfold State.evaluateMatches
  (repeat' split) <;> simp

@[simp] theorem State.secondPasses_tables (s : State) :
    s.secondPasses.plan.entries = s.plan.entries ∧ s.secondPasses.plan.groups = s.plan.groups := by
  unfold State.secondPasses
  dsimp only
  split <;> simp

@[simp] theorem State.tellEnd_tables (s : State) (c : SweepContext) :
    (s.tellEnd c).plan.entries = s.plan.entries ∧ (s.tellEnd c).plan.groups = s.plan.groups := by
  unfold State.tellEnd State.inFreeOrder
  split <;> simp

@[simp] theorem State.closeSweep_tables (s : State) (n : BankName) (c : SweepContext) (o : EngineOutcome) :
    (s.closeSweep n c o).plan.entries = s.plan.entries ∧ (s.closeSweep n c o).plan.groups = s.plan.groups := by
  simp [State.closeSweep]

@[simp] theorem State.closingActions_tables (s : State) :
    s.closingActions.plan.entries = s.plan.entries ∧ s.closingActions.plan.groups = s.plan.groups := by
  unfold State.closingActions
  (repeat' split) <;> simp

@[simp] theorem State.replayBoundary_tables (s : State) (x : TimeOfWeek) :
    (s.replayBoundary x).plan.entries = s.plan.entries ∧ (s.replayBoundary x).plan.groups = s.plan.groups := by
  unfold State.replayBoundary State.closeDecided
  split <;> simp

@[simp] theorem State.replay_tables (s : State) (n m : Nat) :
    (s.replay n m).plan.entries = s.plan.entries ∧ (s.replay n m).plan.groups = s.plan.groups := by
  induction n generalizing s m with
  | zero => exact ⟨rfl, rfl⟩
  | succ n ih => simp [State.replay, ih]

@[simp] theorem State.takeResult_tables (s : State) (r : AnalysisResult) (retained : Bool) :
    (s.takeResult r retained).plan.entries = s.plan.entries ∧
      (s.takeResult r retained).plan.groups = s.plan.groups := by
  simp [State.takeResult]

@[simp] theorem State.completeAnalysis_tables (s : State) (r : AnalysisRecord) :
    (s.completeAnalysis r).plan.entries = s.plan.entries ∧ (s.completeAnalysis r).plan.groups = s.plan.groups := by
  simp [State.completeAnalysis]

@[simp] theorem State.planWritten_tables (s : State) (sp : Span) (was : Bool) :
    (s.planWritten sp was).plan.entries = s.plan.entries ∧ (s.planWritten sp was).plan.groups = s.plan.groups := by
  unfold State.planWritten
  (repeat' split) <;> simp

theorem State.commitGroups_entries (s : State) (gs : List GroupNo) :
    (s.commitGroups gs).plan.entries = s.plan.entries := by
  induction gs generalizing s with
  | nil => rfl
  | cons g rest ih =>
    rw [State.commitGroups, ih]
    rfl

/-! ### What keeps all three tables -/

/-- The entries and groups of the plan and the baselines stand as they were. -/
def SameTables (s t : State) : Prop :=
  t.plan.entries = s.plan.entries ∧ t.plan.groups = s.plan.groups ∧ t.baselines = s.baselines

/-- The commands that write a table of the plan or the baselines. -/
def writesTables : LinkCommand → Bool
  | .planWrite .. | .groupStage .. | .groupCommit .. | .baselineLoad .. | .baselineDrop .. => true
  | _ => false

theorem State.planSeek_tables (s : State) (index : Byte) : SameTables s (s.planSeek index).state := by
  unfold State.planSeek
  (repeat' split) <;> simp [SameTables]

@[simp] theorem State.stepForward_tables (s : State) (k : Nat) :
    (s.stepForward k).plan.entries = s.plan.entries ∧ (s.stepForward k).plan.groups = s.plan.groups := by
  simp [State.stepForward]

theorem State.clockStep_tables (s : State) (seconds : Half) : SameTables s (s.clockStep seconds).state := by
  unfold State.clockStep
  (repeat' split) <;> simp [SameTables]

theorem State.setWindowMode_tables (s : State) (mode : Byte) : SameTables s (s.setWindowMode mode).state := by
  unfold State.setWindowMode
  split
  next m _ => cases m <;> simp [SameTables, State.enterMode]
  next => simp [SameTables]

theorem State.perform_tables (s : State) (tag : Byte) {c : LinkCommand} (h : writesTables c = false) :
    SameTables s (s.perform tag c).state := by
  cases c with
  | planSeek index => exact s.planSeek_tables index
  | clockStep seconds => exact s.clockStep_tables seconds
  | windowMode mode => exact s.setWindowMode_tables mode
  | planWrite | groupStage | groupCommit | baselineLoad | baselineDrop => cases h
  | _ => simp [SameTables, State.perform]

theorem State.reportTaken_tables (s : State) : SameTables s s.reportTaken := by
  simp [SameTables, State.reportTaken]

theorem ShotEvent.tables {s t : State} (h : ShotEvent s t) : SameTables s t := by
  cases h <;> simp [SameTables]

theorem ClockEvent.tables {s t : State} (h : ClockEvent s t) : SameTables s t := by
  cases h with
  | refclkEdge => unfold State.refclkEdge; (repeat' split) <;> simp [SameTables]
  | secondEvent => unfold State.secondEvent; split <;> simp [SameTables]
  | referenceLost => unfold State.referenceLost; (repeat' split) <;> simp [SameTables]
  | referencePresent => simp [SameTables]
  | graceExpires => simp [SameTables]

theorem SweepEvent.tables {s t : State} (h : SweepEvent s t) : SameTables s t := by
  cases h with
  | analysisCompletes => unfold State.analysisCompletes; (repeat' split) <;> simp [SameTables]
  | _ => simp [SameTables]

theorem BankEvent.tables {s t : State} (h : BankEvent s t) : SameTables s t := by
  cases h <;> simp [SameTables]

/-- A reset leaves the entries, the groups and the baselines (RESTART), or makes them those of power-on (R175, R176). -/
theorem ResetEvent.tables {s t : State} (h : ResetEvent s t) : SameTables s t ∨ SameTables State.reset t := by
  cases h with
  | hardReset cause => simp [SameTables, State.hardReset, State.resetNotices, State.reset]
  | resetEffect k =>
    cases k with
    | fullReset => simp [SameTables, State.resetEffect, State.fullReset, State.resetNotices, State.reset]
    | restart =>
      refine .inl ?_
      have blocks : SameTables s s.restartBlocks := by
        simp [SameTables, State.restartBlocks, State.resetNotices, Plan.restarted]
      unfold State.resetEffect State.restart
      dsimp only
      (repeat' split) <;> simpa [SameTables] using blocks

end Sys2Proof.Machine

/-! The laws of the tables (R98, R1, R15) under every step. -/

namespace Sys2Proof.Machine

/-! ### The laws read the tables alone -/

/-- The three laws of the tables. -/
def State.TableLaws (s : State) : Prop :=
  s.PoolLaw ∧ s.PortsLaw ∧ s.LiveLaw

theorem State.PortsLaw.congr {s t : State} (h : s.PortsLaw) (he : t.plan.entries = s.plan.entries) : t.PortsLaw := by
  simpa only [State.PortsLaw, State.entry, he] using h

theorem State.LiveLaw.congr {s t : State} (h : s.LiveLaw) (hg : t.plan.groups = s.plan.groups) : t.LiveLaw := by
  simpa only [State.LiveLaw, State.group, hg] using h

theorem State.PoolLaw.congr {s t : State} (h : s.PoolLaw) (hb : t.baselines = s.baselines) : t.PoolLaw := by
  simpa only [State.PoolLaw, hb] using h

theorem State.TableLaws.congr {s t : State} (h : s.TableLaws) (ht : SameTables s t) : t.TableLaws := by
  obtain ⟨hpool, hports, hlive⟩ := h
  obtain ⟨entries, groups, baselines⟩ := ht
  exact ⟨hpool.congr baselines, hports.congr entries, hlive.congr groups⟩

/-- Slots at power-on hold no record. -/
theorem sum_held_initial (n : Nat) :
    ((Vector.replicate n BaselineSlot.initial).toList.map BaselineSlot.held).sum = 0 := by
  simp [BaselineSlot.initial, BaselineSlot.held]

theorem State.reset_tableLaws : State.reset.TableLaws := by
  refine ⟨?_, fun i j _ hi => ?_, fun g => ?_⟩
  · simp only [State.PoolLaw, State.reset, Baselines.initial, sum_held_initial, Nat.add_zero]
  · simp [State.entry, State.reset, Plan.initial, PlanEntry.initial] at hi
  · simp [State.group, State.reset, Plan.initial, Group.initial, GroupSettings.initial]

/-! ### The pool (R98) -/

theorem sum_map_set {α : Type} (f : α → Nat) (l : List α) (i : Nat) (h : i < l.length) (x : α) :
    ((l.set i x).map f).sum + f l[i] = (l.map f).sum + f x := by
  induction l generalizing i with
  | nil => cases h
  | cons a l ih =>
    cases i with
    | zero => simp; omega
    | succ i =>
      have := ih i (Nat.lt_of_succ_lt_succ h)
      simp at this ⊢
      omega

/-- The records held by the baselines when one slot is written (R98). -/
theorem sum_held_tableSet (t : Vector BaselineSlot 192) (sp : Span) (x : BaselineSlot) :
    ((tableSet t sp x).toList.map BaselineSlot.held).sum + (tableGet t sp).held =
      (t.toList.map BaselineSlot.held).sum + x.held := by
  have := sum_map_set BaselineSlot.held t.toList sp.val (by simp) x
  simpa [tableSet, tableGet, Vector.toList_set] using this

/-- A slot written with the free count that pays the difference keeps the law of the pool. -/
theorem State.PoolLaw.setSlot {s : State} (h : s.PoolLaw) (sp : Span) (x : BaselineSlot) {n : Nat}
    (hn : n + x.held = s.baselines.poolFree + (s.slot sp).held) : (s.setSlot sp x n).PoolLaw := by
  have sum := sum_held_tableSet s.baselines.slots sp x
  simp only [State.PoolLaw, State.slot, State.setSlot, State.withBaselines] at h hn ⊢
  omega

/-- A write of one slot that pays the pool, then the span set back (R105). -/
theorem State.TableLaws.setSlot_setBack {s : State} (h : s.TableLaws) (sp : Span) (x : BaselineSlot) {n : Nat}
    (hn : n + x.held = s.baselines.poolFree + (s.slot sp).held) : ((s.setSlot sp x n).setBack sp).TableLaws := by
  obtain ⟨hpool, hports, hlive⟩ := h
  exact ⟨(hpool.setSlot sp x hn).congr (by simp), hports.congr (by simp), hlive.congr (by simp)⟩

theorem State.TableLaws.baselineLoad {s : State} (h : s.TableLaws) (span cls binLength : Byte) (launch endBin : Half)
    (zones : List ZoneWords) : (s.baselineLoad span cls binLength launch endBin zones).state.TableLaws := by
  unfold State.baselineLoad
  split
  next sp b _ _ =>
    split
    next => exact h
    next =>
      split
      next => exact h
      next hfits =>
        refine h.setSlot_setBack sp _ ?_
        simp only [BaselineSlot.held] at hfits ⊢
        omega
  next => exact h

theorem State.TableLaws.baselineDrop {s : State} (h : s.TableLaws) (span : Byte) :
    (s.baselineDrop span).state.TableLaws := by
  unfold State.baselineDrop
  split
  next => exact h
  next sp _ =>
    split
    next => exact h
    next => exact h.setSlot_setBack sp _ rfl

/-! ### The ports (R1) -/

/-- No enabled entry of another span names the port. -/
theorem State.portTaken_eq_false {s : State} {sp : Span} {p : SelPort} (h : s.portTaken sp p = false) {i : Span}
    (hi : i ≠ sp) (he : (s.entry i).enabled = true) : (s.entry i).port ≠ p := by
  intro hp
  have : s.portTaken sp p = true := by
    simp only [State.portTaken, List.any_eq_true, List.mem_finRange, true_and]
    exact ⟨i, by simp [hi, he, hp]⟩
  simp [this] at h

/-- An entry whose port no other enabled entry names may be written (R2). -/
theorem State.PortsLaw.setEntry {s : State} (h : s.PortsLaw) (sp : Span) {e : PlanEntry}
    (he : e.enabled = true → s.portTaken sp e.port = false) : (s.setEntry sp e).PortsLaw := by
  intro i j hij hi hj
  by_cases hisp : i = sp
  · subst hisp
    rw [State.entry_setEntry] at hi ⊢
    rw [State.entry_setEntry_ne _ (Ne.symm hij)] at hj ⊢
    exact (State.portTaken_eq_false (he hi) (Ne.symm hij) hj).symm
  · rw [State.entry_setEntry_ne _ hisp] at hi ⊢
    by_cases hjsp : j = sp
    · subst hjsp
      rw [State.entry_setEntry] at hj ⊢
      exact State.portTaken_eq_false (he hj) hisp hi
    · rw [State.entry_setEntry_ne _ hjsp] at hj ⊢
      exact h i j hij hi hj

theorem State.setEntry_groups (s : State) (sp : Span) (e : PlanEntry) :
    (s.setEntry sp e).plan.groups = s.plan.groups := rfl

theorem State.TableLaws.planWrite {s : State} (h : s.TableLaws) (span enabled port group : Byte) :
    (s.planWrite span enabled port group).state.TableLaws := by
  obtain ⟨hpool, hports, hlive⟩ := h
  unfold State.planWrite
  split
  next sp p g en _ _ _ _ =>
    split
    next => exact ⟨hpool, hports, hlive⟩
    next hfree =>
      have free : en = true → s.portTaken sp p = false := by simpa using hfree
      have ports := hports.setEntry sp (e := { enabled := en, port := p, group := g }) free
      exact ⟨hpool.congr (by simp [State.ok]), ports.congr (by simp [State.ok]),
        hlive.congr (by simp [State.ok, State.setEntry_groups])⟩
  next => exact ⟨hpool, hports, hlive⟩

/-! ### The live sets (R15) -/

theorem State.setGroup_entries (s : State) (g : GroupNo) (x : Group) :
    (s.setGroup g x).plan.entries = s.plan.entries := rfl

theorem State.LiveLaw.setGroup {s : State} (h : s.LiveLaw) (g : GroupNo) {x : Group}
    (hx : x.live.baseClass ≤ x.live.maxClass) : (s.setGroup g x).LiveLaw := by
  intro i
  by_cases hi : i = g
  · subst hi
    rw [State.group_setGroup]
    exact hx
  · rw [State.group_setGroup_ne _ hi]
    exact h i

/-- A group written with an ordered live set keeps the laws of the tables. -/
theorem State.TableLaws.setGroup {s : State} (h : s.TableLaws) (g : GroupNo) {x : Group}
    (hx : x.live.baseClass ≤ x.live.maxClass) : (s.setGroup g x).TableLaws := by
  obtain ⟨hpool, hports, hlive⟩ := h
  exact ⟨hpool.congr (by simp), hports.congr (s.setGroup_entries g x), hlive.setGroup g hx⟩

theorem State.TableLaws.groupStage {s : State} (h : s.TableLaws) (group : Byte) (pairs : List (Byte × Word)) :
    (s.groupStage group pairs).state.TableLaws := by
  have hlive := h.2.2
  unfold State.groupStage
  split
  next => exact h
  next g _ =>
    split
    next =>
      split
      next => exact h.setGroup g (hlive g)
      next => exact h
    next => exact h

/-- A commit leaves the pending set of every group. -/
theorem State.setGroup_committed_pending (s : State) (g i : GroupNo) :
    ((s.setGroup g { s.group g with live := (s.group g).pending, staged := false }).group i).pending =
      (s.group i).pending := by
  by_cases hi : i = g
  · subst hi
    rw [State.group_setGroup]
  · rw [State.group_setGroup_ne _ hi]

theorem State.TableLaws.commitGroups {s : State} (h : s.TableLaws) (gs : List GroupNo)
    (hgs : ∀ g ∈ gs, (s.group g).pending.ordered = true) : (s.commitGroups gs).TableLaws := by
  induction gs generalizing s with
  | nil => exact h
  | cons g rest ih =>
    have ordered : (s.group g).pending.ordered = true := hgs g List.mem_cons_self
    refine ih (h.setGroup g (of_decide_eq_true ordered)) fun i hi => ?_
    rw [State.setGroup_committed_pending]
    exact hgs i (List.mem_cons_of_mem g hi)

theorem State.TableLaws.groupCommit {s : State} (h : s.TableLaws) (groups : List Byte) :
    (s.groupCommit groups).state.TableLaws := by
  unfold State.groupCommit
  split
  next => exact h
  next gs _ =>
    split
    next hall =>
      refine h.commitGroups gs ?_
      simp only [Bool.and_eq_true, List.all_eq_true] at hall
      exact hall.2
    next => exact h

/-! ### Every step -/

theorem State.TableLaws.perform {s : State} (h : s.TableLaws) (tag : Byte) (c : LinkCommand) :
    (s.perform tag c).state.TableLaws := by
  cases c with
  | planWrite span enabled port group => exact h.planWrite span enabled port group
  | groupStage group pairs => exact h.groupStage group pairs
  | groupCommit groups => exact h.groupCommit groups
  | baselineLoad span cls binLength launch endBin zones =>
    exact h.baselineLoad span cls binLength launch endBin zones
  | baselineDrop span => exact h.baselineDrop span
  | _ => exact h.congr (s.perform_tables tag rfl)

theorem tableLaws_keptByParts : KeptByParts State.TableLaws where
  pending _ h := h
  link _ _ h := h
  command tag c h := h.perform tag c
  report {s} h := h.congr s.reportTaken_tables
  shot he h := h.congr he.tables
  clock he h := h.congr he.tables
  sweep he h := h.congr he.tables
  bank he h := h.congr he.tables
  reset he h := he.tables.elim h.congr State.reset_tableLaws.congr

/-- Settles O55: the commands that write a table keep its law, and nothing else writes one. -/
theorem everyStepKeepsTheTableLaws : Obligations.EveryStepKeepsTheTableLaws := by
  intro s t h ht
  exact tableLaws_keptByParts.step_keeps h ht

end Sys2Proof.Machine

/-! The laws of form under every step: the length of the command queue (R168) and the canonical form of the bin sums. -/

namespace Sys2Proof.Machine

/-! ### The bin sums -/

theorem State.SumsLaw.congr {s t : State} (h : s.SumsLaw) (ht : t.banks = s.banks) : t.SumsLaw := fun n => by
  rw [State.bank_congr ht]
  exact h n

theorem State.SumsLaw.withPort {s : State} (h : s.SumsLaw) (x : Port) : (s.withPort x).SumsLaw := h

theorem State.SumsLaw.setTime {s : State} (h : s.SumsLaw) (x : TimeOfWeek) : (s.setTime x).SumsLaw := h

theorem State.SumsLaw.idleAnalyser {s : State} (h : s.SumsLaw) : s.idleAnalyser.SumsLaw := h

theorem State.SumsLaw.setBank {s : State} (h : s.SumsLaw) (n : BankName) {x : Bank} (hx : x.sums.wf = true) :
    (s.setBank n x).SumsLaw := fun m => by
  by_cases hm : m = n
  · rw [hm, State.bank_setBank]
    exact hx
  · rw [State.bank_setBank_ne _ hm]
    exact h m

/-- Both banks stand, the rest of the block differs. -/
theorem State.SumsLaw.sameBanks {s t : State} (h : s.SumsLaw) (ha : t.banks.a = s.banks.a) (hb : t.banks.b = s.banks.b) :
    t.SumsLaw := fun n => by
  have := h n
  cases n <;> simp_all [State.bank]

theorem State.SumsLaw.freeBank {s : State} (h : s.SumsLaw) (n : BankName) : (s.freeBank n).SumsLaw := by
  have freed : (s.setBank n (s.bank n).freed).SumsLaw := h.setBank n (h n)
  unfold State.freeBank
  split <;> exact freed.congr (by simp)

theorem State.SumsLaw.backToHeld {s : State} (h : s.SumsLaw) (n : BankName) : (s.backToHeld n).SumsLaw := by
  unfold State.backToHeld
  split
  next => exact h.freeBank n
  next => exact h.setBank n (h n)

theorem State.SumsLaw.claimBank {s : State} (h : s.SumsLaw) (n : BankName) (c : SweepContext) :
    (s.claimBank n c).SumsLaw :=
  h.setBank n rfl

theorem State.SumsLaw.fillBank {s : State} (h : s.SumsLaw) (n : BankName) : (s.fillBank n).SumsLaw :=
  State.SumsLaw.sameBanks (h.setBank n (x := { s.bank n with state := .full }) (h n)) rfl rfl

theorem State.SumsLaw.holdBank {s : State} (h : s.SumsLaw) (n : BankName) : (s.holdBank n).SumsLaw := by
  refine State.SumsLaw.sameBanks (h.setBank n (x := { s.bank n with
    state := .held, reanalysis := .idle, hold := .running s.banks.holdLimit, exporting := none }) (h n)) ?_ ?_ <;>
    simp [State.holdBank]

theorem State.SumsLaw.settleBank {s : State} (h : s.SumsLaw) (n : BankName) (c : SweepContext) :
    (s.settleBank n c).SumsLaw := by
  unfold State.settleBank
  split
  next => exact h.holdBank n
  next => exact h.freeBank n

theorem State.SumsLaw.takeReady {s : State} (h : s.SumsLaw) : s.takeReady.SumsLaw := by
  unfold State.takeReady
  split
  next n _ _ _ =>
    split
    next => exact State.SumsLaw.sameBanks (h.setBank n (x := { s.bank n with state := .analysing }) (h n)) rfl rfl
    next =>
      exact State.SumsLaw.sameBanks
        (h.setBank n (x := { s.bank n with state := .analysing, reanalysis := .running }) (h n)) rfl rfl
    next => exact h
  next => exact h

theorem State.SumsLaw.setContext {s : State} (h : s.SumsLaw) (c : SweepContext) : (s.setContext c).SumsLaw := by
  unfold State.setContext
  split
  next n _ => exact h.setBank n (h n)
  next => exact h

theorem State.SumsLaw.takeJudgement {s : State} (h : s.SumsLaw) (c : SweepContext) (dark : Bool) (j : Judgement) :
    (s.takeJudgement c dark j).SumsLaw := by
  have tallied := h.setContext (c.tally dark j)
  unfold State.takeJudgement
  split
  next => exact tallied.congr (by simp)
  next => split <;> exact tallied.congr (by simp)

theorem State.SumsLaw.deliver {s : State} (h : s.SumsLaw) (dark : Bool) (j : Judgement) : (s.deliver dark j).SumsLaw := by
  unfold State.deliver
  split
  next => exact h
  next => split <;> [exact h.takeJudgement _ _ _; exact h.takeJudgement _ _ _; exact h.takeJudgement _ _ _; exact h]

theorem State.SumsLaw.tear {s : State} (h : s.SumsLaw) (b : OpenBlock) : (s.tear b).SumsLaw := by
  unfold State.tear
  split
  next => exact (h.withPort _).deliver _ _
  next => exact h

theorem ShotEvent.sumsLaw {s t : State} (e : ShotEvent s t) (h : s.SumsLaw) : t.SumsLaw := by
  cases e with
  | headerArrives tag bins =>
    unfold State.headerArrives
    split
    next b _ => exact h.tear b
    next => exact h
  | trailerArrives saturated =>
    unfold State.trailerArrives
    split
    next =>
      split
      next => exact (h.withPort _).deliver _ _
      next => exact h
    next => exact h
    next => exact h
  | shotExpires tag =>
    unfold State.shotExpires
    split
    next => exact (h.withPort _).deliver _ _
    next => exact h
  | sumSample =>
    unfold State.sumSample
    split
    next head _ level _ _ _ =>
      split
      next =>
        have added : (s.addToBank head.bank head.summed level).SumsLaw :=
          h.setBank head.bank (Sums.add_wf (h head.bank) head.summed level)
        exact added.congr (by simp)
      next => exact h
    next => exact h
  | completeAccumulation =>
    unfold State.completeAccumulation
    split
    next head _ _ =>
      split
      next =>
        refine State.SumsLaw.congr (h.setBank head.bank (x := { s.bank head.bank with
          accepted := (s.bank head.bank).accepted + (if head.counted then 1 else 0) }) (h head.bank)) ?_
        simp
      next => exact h
    next => exact h
  | _ => exact h.congr (by simp)

theorem State.SumsLaw.beginSweep {s : State} (h : s.SumsLaw) (x : Source) (n : BankName) : (s.beginSweep x n).SumsLaw := by
  have claimed : ((s.withPort (s.port.endSumming n)).claimBank n (s.buildContext x n)).SumsLaw :=
    State.SumsLaw.claimBank (s := s.withPort (s.port.endSumming n)) h n _
  exact claimed.congr (by simp [State.beginSweep])

theorem SourceTaken.banks {s t : State} (h : SourceTaken s t) : t.banks = s.banks := by
  cases h <;> simp

theorem State.SumsLaw.sweepStart {s : State} (h : s.SumsLaw) : s.sweepStart.SumsLaw := by
  rcases s.sweepStart_cases with hs | hs | ⟨t, x, n, _, _, taken, hs⟩ <;> rw [hs]
  · exact h
  · exact h.congr (by simp)
  · exact (h.congr taken.banks).beginSweep x n

theorem State.SumsLaw.closeSweep {s : State} (h : s.SumsLaw) (n : BankName) (c : SweepContext) (o : EngineOutcome) :
    (s.closeSweep n c o).SumsLaw := by
  have freed : ((s.giveBack c o).freeBank n).SumsLaw :=
    (h.congr (t := s.giveBack c o) (by simp)).freeBank n
  exact freed.congr (by simp [State.closeSweep])

theorem State.SumsLaw.closingActions {s : State} (h : s.SumsLaw) : s.closingActions.SumsLaw := by
  unfold State.closingActions
  split
  next => split <;> [exact h.closeSweep _ _ _; exact h]
  next => exact h

theorem SweepEvent.sumsLaw {s t : State} (e : SweepEvent s t) (h : s.SumsLaw) : t.SumsLaw := by
  cases e with
  | sweepStart => exact h.sweepStart
  | sweepComplete =>
    unfold State.sweepComplete
    split
    next n _ _ _ => split <;> [exact (h.fillBank n).congr (by simp); exact h]
    next => exact h
  | closingActions => exact h.closingActions
  | analysisCompletes =>
    unfold State.analysisCompletes
    split
    next r _ =>
      split
      next => exact ((h.settleBank r.bank r.context).congr (by simp)).takeReady
      next => exact h
    next => exact h
  | reanalysisCompletes =>
    unfold State.reanalysisCompletes
    split
    next r _ =>
      split
      next =>
        have reported (l : List Record) : (s.putWork l).SumsLaw := h.congr (by simp)
        exact ((reported _).backToHeld r.bank).idleAnalyser.takeReady
      next => exact h
    next => exact h

theorem State.SumsLaw.replay {s : State} (h : s.SumsLaw) (n m : Nat) : (s.replay n m).SumsLaw := by
  induction n generalizing s m with
  | zero => exact h
  | succ n ih =>
    have matched : ((s.setTime (.ofSeconds (m * 60))).evaluateMatches .stepped).SumsLaw := h.congr (by simp)
    refine ih ?_ (m + 1)
    unfold State.replayBoundary State.closeDecided
    split <;> [exact matched; exact matched.closingActions]

theorem State.SumsLaw.stepForward {s : State} (h : s.SumsLaw) (k : Nat) : (s.stepForward k).SumsLaw := by
  unfold State.stepForward
  exact (h.replay _ _).setTime _

theorem State.SumsLaw.stepBack {s : State} (h : s.SumsLaw) (k : Nat) : (s.stepBack k).SumsLaw := by
  unfold State.stepBack
  exact h.setTime _

theorem State.SumsLaw.clockStep {s : State} (h : s.SumsLaw) (seconds : Half) : (s.clockStep seconds).state.SumsLaw := by
  unfold State.clockStep
  split
  next => exact h
  next =>
    split
    next => exact h
    next =>
      split
      next => exact h.stepForward _
      next => exact h.stepBack _

theorem State.SumsLaw.holdExpires {s : State} (h : s.SumsLaw) (n : BankName) : (s.holdExpires n).SumsLaw := by
  unfold State.holdExpires
  split
  next =>
    have expired : (s.setBank n { s.bank n with hold := .expired }).SumsLaw := h.setBank n (h n)
    dsimp only
    split
    next => exact expired.freeBank n
    next => exact expired.setBank n (expired n)
  next => exact h

theorem State.SumsLaw.releaseBank {s : State} (h : s.SumsLaw) (n : BankName) : (s.releaseBank n).SumsLaw := by
  unfold State.releaseBank
  split
  next => exact h
  next => split <;> [exact h.setBank n (h n); split <;> [exact h.freeBank n; exact h.setBank n (h n)]]

theorem State.SumsLaw.traceExport {s : State} (h : s.SumsLaw) (tag : Byte) (start count : Half) :
    (s.traceExport tag start count).state.SumsLaw := by
  unfold State.traceExport
  split
  next => exact h
  next =>
    split
    next => exact h
    next n _ =>
      split
      next => exact h
      next => split <;> [exact h; split <;> [exact h; exact h.setBank n (h n)]]

theorem State.SumsLaw.reanalyse {s : State} (h : s.SumsLaw) (profile : Byte) :
    (s.reanalyse profile).state.SumsLaw := by
  unfold State.reanalyse
  split
  next => exact h
  next p _ =>
    split
    next => exact h
    next n _ =>
      split
      next => exact h
      next =>
        split
        next => exact h
        next =>
          have marked : (s.setBank n { s.bank n with reanalysis := .waiting p }).SumsLaw := h.setBank n (h n)
          cases n <;> exact marked.sameBanks rfl rfl

theorem State.SumsLaw.testNow {s : State} (h : s.SumsLaw) (span retain : Byte) :
    (s.testNow span retain).state.SumsLaw := by
  have placed : ∀ (sp : Span) (r : Bool), (s.placeRetain sp r).SumsLaw := fun sp r => by
    unfold State.placeRetain
    split <;> exact h.sameBanks rfl rfl
  have served : ∀ {u : State} (sp : Span) (r : Bool), u.SumsLaw → (u.serveTest sp r).SumsLaw := fun sp r hu => by
    unfold State.serveTest
    split
    next => exact hu.congr (by simp)
    next => exact hu.congr (by simp)
    next => exact hu.congr (by simp)
    next => split <;> [exact hu.setContext _; exact hu.congr (by split <;> simp)]
    next => exact hu.congr (by simp)
  unfold State.testNow
  split
  next sp r _ _ =>
    split
    next => exact h
    next => split <;> [exact h; split <;> [exact h; exact served sp r (placed sp r)]]
  next => exact h

theorem State.SumsLaw.perform {s : State} (h : s.SumsLaw) (tag : Byte) (c : LinkCommand) :
    (s.perform tag c).state.SumsLaw := by
  cases c with
  | clockStep seconds => exact h.clockStep seconds
  | testNow span retain => exact h.testNow span retain
  | traceExport start count => exact h.traceExport tag start count
  | reanalyse profile => exact h.reanalyse profile
  | bankRelease =>
    change (s.bankRelease).state.SumsLaw
    unfold State.bankRelease
    split
    next => exact h
    next n _ => exact h.releaseBank n
  | retainRequest span =>
    change (s.retainRequest span).state.SumsLaw
    unfold State.retainRequest
    (repeat' split) <;> exact h.sameBanks rfl rfl
  | settingsWrite pairs =>
    change (s.settingsWrite pairs).state.SumsLaw
    unfold State.settingsWrite State.writeSettings
    (repeat' split) <;> exact h.sameBanks (by simp [State.ok, State.refuse, State.storeSettings])
      (by simp [State.ok, State.refuse, State.storeSettings])
  | _ => exact h.congr (by simp [State.perform])

theorem ClockEvent.sumsLaw {s t : State} (e : ClockEvent s t) (h : s.SumsLaw) : t.SumsLaw := by
  cases e <;> exact h.congr (by simp)

theorem BankEvent.sumsLaw {s t : State} (e : BankEvent s t) (h : s.SumsLaw) : t.SumsLaw := by
  cases e with
  | takeReady => exact h.takeReady
  | holdExpires n => exact h.holdExpires n
  | exportBegins f =>
    unfold State.exportBegins
    split
    next => exact h.setBank f.bank (h f.bank)
    next => exact h
  | exportSent f =>
    unfold State.exportSent
    split
    next => split <;> [(split <;> [exact h.backToHeld f.bank; exact h.setBank f.bank (h f.bank)]); exact h]
    next => exact h

/-- A reset leaves the sums of the banks (R94). -/
theorem ResetEvent.sumsLaw {s t : State} (e : ResetEvent s t) (h : s.SumsLaw) : t.SumsLaw := by
  have kept : ∀ {u : State} (n : Nat), u.banks = s.banks.reset n → u.SumsLaw := fun {u} n hu m => by
    have := h m
    cases m <;> simpa [State.bank, hu, Banks.reset, Bank.reset] using this
  cases e with
  | hardReset cause => exact kept _ rfl
  | resetEffect k =>
    cases k with
    | fullReset => exact kept _ rfl
    | restart =>
      have blocks : s.restartBlocks.banks = s.banks.reset s.banks.holdLimit := rfl
      refine kept s.banks.holdLimit ?_
      unfold State.resetEffect State.restart
      dsimp only
      (repeat' split) <;> simpa using blocks

/-! ### The command queue -/

theorem State.QueueLaw.congr {s t : State} (h : s.QueueLaw) (ht : t.link = s.link) : t.QueueLaw := by
  unfold State.QueueLaw
  rwa [ht]

theorem ResetEvent.queueLaw {s t : State} (e : ResetEvent s t) (h : s.QueueLaw) : t.QueueLaw := by
  cases e with
  | hardReset cause => exact Nat.zero_le _
  | resetEffect k =>
    cases k with
    | fullReset => exact h
    | restart =>
      have blocks : s.restartBlocks.QueueLaw := h
      unfold State.resetEffect State.restart
      dsimp only
      (repeat' split) <;> exact blocks.congr (by simp)

theorem formLaws_keptByParts : KeptByParts fun s => s.QueueLaw ∧ s.SumsLaw where
  pending _ h := h
  link {s} l hl h := by
    obtain ⟨hqueue, hsums⟩ := h
    have length : l.queue.length ≤ Config.commandSlots := hl.trans (max_le hqueue (le_refl 4))
    exact ⟨length, hsums⟩
  command {s} tag c h := ⟨h.1.congr (s.perform_link tag c), h.2.perform tag c⟩
  report h := ⟨h.1.congr (by simp [State.reportTaken]), h.2.congr (by simp [State.reportTaken])⟩
  shot e h := ⟨h.1.congr (by cases e <;> simp), e.sumsLaw h.2⟩
  clock e h := ⟨h.1.congr (by cases e <;> simp), e.sumsLaw h.2⟩
  sweep e h := ⟨h.1.congr (by cases e <;> simp), e.sumsLaw h.2⟩
  bank e h := ⟨h.1.congr (by cases e <;> simp), e.sumsLaw h.2⟩
  reset e h := ⟨e.queueLaw h.1, e.sumsLaw h.2⟩

/-- Settles O60: the queue grows only below 4 frames, and a sum is written by `Sums.add` alone. -/
theorem everyStepKeepsTheFormLaws : Obligations.EveryStepKeepsTheFormLaws := by
  intro s t h ht
  exact formLaws_keptByParts.step_keeps h ht

end Sys2Proof.Machine

/-! The law of the ACTIVE cycle (R10) under every step: a cycle starts only while the window is OPEN, and the window
leaves OPEN only with the end of its cycle (R11, R30). -/

namespace Sys2Proof.Machine

/-! ### Which operations start or end a cycle -/

@[simp] theorem State.countStarted_active (s : State) (as : CountedAs) :
    (s.countStarted as).plan.active.isSome = s.plan.active.isSome := by
  unfold State.countStarted
  split
  next h => simp [h]
  next => rfl

@[simp] theorem State.countEndedEnding_active (s : State) (n : Nat) (as : CountedAs) :
    (s.countEndedEnding n as).plan.active = s.plan.active := by
  unfold State.countEndedEnding
  split
  next => rfl
  next => split <;> simp

@[simp] theorem State.countEnded_active (s : State) (cycle : Option Nat) (as : CountedAs) :
    (s.countEnded cycle as).plan.active.isSome = s.plan.active.isSome := by
  unfold State.countEnded
  split
  next => rfl
  next =>
    split
    next h => split <;> simp [h]
    next => simp

@[simp] theorem State.endCycle_active (s : State) (reason : CycleReason) (n : Nat) :
    (s.endCycle reason n).plan.active = none := by
  unfold State.endCycle
  split
  next h => exact h
  next => dsimp only; split <;> simp

@[simp] theorem State.closeCycle_active (s : State) : s.closeCycle.plan.active = none := by
  unfold State.closeCycle
  split
  next h => exact h
  next => simp

@[simp] theorem State.openWindow_opened (s : State) (cause : EdgeCause) :
    (s.openWindow cause).window.state = .opened := by
  unfold State.openWindow
  split
  next h => exact h
  next => simp
  next => simp

/-! ### The law -/

theorem State.CycleLaw.congr {s t : State} (h : s.CycleLaw)
    (ha : t.plan.active.isSome = true → s.plan.active.isSome = true) (hw : t.window.state = s.window.state) :
    t.CycleLaw := fun ht => by
  rw [hw]
  exact h (ha ht)

theorem State.CycleLaw.same {s t : State} (h : s.CycleLaw) (hp : t.plan = s.plan) (hw : t.window.state = s.window.state) :
    t.CycleLaw :=
  h.congr (by simp [hp]) hw

/-- A window that is OPEN may have an ACTIVE cycle. -/
theorem State.cycleLaw_of_opened {s : State} (h : s.window.state = .opened) : s.CycleLaw := fun _ => h

/-- Without an ACTIVE cycle the window may be in any state. -/
theorem State.cycleLaw_of_none {s : State} (h : s.plan.active = none) : s.CycleLaw := fun ha => by
  simp [h] at ha

/-- No cycle is ACTIVE while the window is not OPEN. -/
theorem State.CycleLaw.none_of_ne {s : State} (h : s.CycleLaw) (hw : s.window.state ≠ .opened) : s.plan.active = none := by
  cases ha : s.plan.active with
  | none => rfl
  | some c => exact absurd (h (by simp [ha])) hw

theorem State.CycleLaw.choose {s : State} (h : s.CycleLaw) : s.choose.CycleLaw :=
  h.same (by simp) (by simp)

/-- A change that leaves the plan, while the window is not OPEN. -/
theorem State.CycleLaw.samePlan {s t : State} (h : s.CycleLaw) (hw : s.window.state ≠ .opened) (hp : t.plan = s.plan) :
    t.CycleLaw :=
  State.cycleLaw_of_none (by rw [hp]; exact h.none_of_ne hw)

theorem State.cycleLaw_openWindow (s : State) (cause : EdgeCause) : (s.openWindow cause).CycleLaw :=
  State.cycleLaw_of_opened (s.openWindow_opened cause)

theorem State.CycleLaw.leaveOpen {s : State} (h : s.CycleLaw) (cause : EdgeCause) : (s.leaveOpen cause).CycleLaw := by
  unfold State.leaveOpen
  split
  next =>
    refine State.cycleLaw_of_none ?_
    unfold State.inFreeOrder
    dsimp only
    split <;> simp
  next => exact h

theorem State.CycleLaw.graceEnds {s : State} (h : s.CycleLaw) (hw : s.window.state ≠ .opened) : s.graceEnds.CycleLaw :=
  h.samePlan hw (by simp)

theorem State.CycleLaw.sweepEnded {s : State} (h : s.CycleLaw) : s.sweepEnded.CycleLaw := by
  unfold State.sweepEnded
  split
  next hw =>
    have closing : s.window.state = .closing := by simpa using hw
    exact h.samePlan (by simp [closing]) (by simp)
  next => exact h

theorem State.CycleLaw.countEnded {s : State} (h : s.CycleLaw) (cycle : Option Nat) (as : CountedAs) :
    (s.countEnded cycle as).CycleLaw :=
  h.congr (by simp) (by simp)

theorem State.CycleLaw.evaluateMatches {s : State} (h : s.CycleLaw) (cause : EdgeCause) :
    (s.evaluateMatches cause).CycleLaw := by
  unfold State.evaluateMatches
  split
  next => split <;> [exact s.cycleLaw_openWindow cause; split <;> [exact h.leaveOpen cause; exact h]]
  next => exact h

theorem State.CycleLaw.setTime {s : State} (h : s.CycleLaw) (x : TimeOfWeek) : (s.setTime x).CycleLaw := h

theorem State.CycleLaw.secondPasses {s : State} (h : s.CycleLaw) : s.secondPasses.CycleLaw := by
  have passed : (s.withWindow { s.window with time := s.window.time.next, divider := 0 }).CycleLaw := h
  unfold State.secondPasses
  dsimp only
  split <;> [exact passed.evaluateMatches .matched; exact passed]

theorem ClockEvent.cycleLaw {s t : State} (e : ClockEvent s t) (h : s.CycleLaw) : t.CycleLaw := by
  cases e with
  | refclkEdge =>
    unfold State.refclkEdge
    split
    next => split <;> [exact h; exact h.secondPasses]
    next => exact h
  | secondEvent =>
    unfold State.secondEvent
    split <;> [exact h.secondPasses; exact h]
  | referenceLost =>
    unfold State.referenceLost
    split
    next => exact h
    next =>
      have lost : ((s.withWindow { s.window with reference := .lost, integrity := .invalid }).raise
        .clockLost).CycleLaw := h
      dsimp only
      split <;> [exact lost.leaveOpen _; exact lost]
  | referencePresent => exact h
  | graceExpires =>
    unfold State.graceExpires
    split
    next hw _ => exact h.graceEnds (by simp [hw])
    next => exact h

/-! ### The life of a sweep -/

theorem State.CycleLaw.startCycle {s : State} (hw : s.window.state = .opened) : s.startCycle.CycleLaw :=
  State.cycleLaw_of_opened (by simpa using hw)

theorem State.cycleLaw_wrapCycle (s : State) (c : CycleRecord) : (s.wrapCycle c).CycleLaw := by
  unfold State.wrapCycle
  dsimp only
  split
  next hw => exact State.CycleLaw.startCycle (by simpa using hw)
  next => exact State.cycleLaw_of_none (by simp)

theorem State.CycleLaw.takeAt {s : State} (h : s.CycleLaw) (sp : Span) : (s.takeAt sp).CycleLaw := h

theorem SourceTaken.cycleLaw {s t : State} (e : SourceTaken s t) (h : s.CycleLaw) : t.CycleLaw := by
  cases e with
  | demand => exact h
  | queue e rest _ => exact h
  | plan sp => exact h.takeAt sp
  | wrap c sp => exact (s.cycleLaw_wrapCycle c).takeAt sp

theorem State.CycleLaw.beginSweep {s : State} (h : s.CycleLaw) (x : Source) (n : BankName) :
    (s.beginSweep x n).CycleLaw :=
  h.congr (by simp [State.beginSweep]) (by simp [State.beginSweep])

theorem State.CycleLaw.sweepStart {s : State} (h : s.CycleLaw) : s.sweepStart.CycleLaw := by
  rcases s.sweepStart_cases with hs | hs | ⟨t, x, n, _, _, taken, hs⟩ <;> rw [hs]
  · exact h
  · exact h.choose
  · exact (taken.cycleLaw h).beginSweep x n

theorem State.CycleLaw.tellEnd {s : State} (h : s.CycleLaw) (c : SweepContext) : (s.tellEnd c).CycleLaw := by
  unfold State.tellEnd State.inFreeOrder
  split
  next => exact (h.countEnded c.cycle c.countedAs).sweepEnded.same (by simp) (by simp)
  next => exact (h.sweepEnded.countEnded c.cycle c.countedAs).same (by simp) (by simp)

theorem State.CycleLaw.closingActions {s : State} (h : s.CycleLaw) : s.closingActions.CycleLaw := by
  unfold State.closingActions
  split
  next n o c _ _ _ _ =>
    split
    next =>
      unfold State.closeSweep
      refine State.CycleLaw.choose (State.CycleLaw.tellEnd ?_ c)
      exact h.same (by simp) (by simp)
    next => exact h
  next => exact h

theorem State.CycleLaw.completeAnalysis {s : State} (h : s.CycleLaw) (r : AnalysisRecord) :
    (s.completeAnalysis r).CycleLaw := by
  unfold State.completeAnalysis State.takeResult
  exact h.congr (by simp) (by simp)

theorem SweepEvent.cycleLaw {s t : State} (e : SweepEvent s t) (h : s.CycleLaw) : t.CycleLaw := by
  cases e with
  | sweepStart => exact h.sweepStart
  | sweepComplete =>
    unfold State.sweepComplete
    split
    next n _ _ _ =>
      split
      next =>
        have dropped : (s.fillBank n).dropSweep.CycleLaw := h.same (by simp) (by simp)
        exact dropped.sweepEnded.choose
      next => exact h
    next => exact h
  | closingActions => exact h.closingActions
  | analysisCompletes =>
    unfold State.analysisCompletes
    split
    next r _ => split <;> [exact h.completeAnalysis r; exact h]
    next => exact h
  | reanalysisCompletes => exact h.same (by simp) (by simp)

/-! ### Commands and resets -/

theorem State.CycleLaw.replay {s : State} (h : s.CycleLaw) (n m : Nat) : (s.replay n m).CycleLaw := by
  induction n generalizing s m with
  | zero => exact h
  | succ n ih =>
    have matched := (h.setTime (.ofSeconds (m * 60))).evaluateMatches .stepped
    refine ih ?_ (m + 1)
    unfold State.replayBoundary State.closeDecided
    split <;> [exact matched; exact matched.closingActions]

theorem State.CycleLaw.stepForward {s : State} (h : s.CycleLaw) (k : Nat) : (s.stepForward k).CycleLaw := by
  unfold State.stepForward
  exact (h.replay _ _).setTime _

theorem State.CycleLaw.stepBack {s : State} (h : s.CycleLaw) (k : Nat) : (s.stepBack k).CycleLaw := by
  unfold State.stepBack
  exact h.setTime _

theorem State.CycleLaw.clockStep {s : State} (h : s.CycleLaw) (seconds : Half) :
    (s.clockStep seconds).state.CycleLaw := by
  unfold State.clockStep
  split
  next => exact h
  next => split <;> [exact h; split <;> [exact h.stepForward _; exact h.stepBack _]]

theorem State.CycleLaw.planWrite {s : State} (h : s.CycleLaw) (span enabled port group : Byte) :
    (s.planWrite span enabled port group).state.CycleLaw := by
  have written : ∀ {u : State} (sp : Span) (was : Bool), u.CycleLaw → (u.planWritten sp was).CycleLaw :=
    fun {u} sp was hu => by
      unfold State.planWritten
      split
      next =>
        split
        next hw =>
          have opened : u.window.state = .opened := by
            simp only [Bool.and_eq_true, beq_iff_eq] at hw
            exact hw.1.2
          exact (State.CycleLaw.startCycle opened).choose
        next => exact hu.choose
      next => exact hu.same (by simp) (by simp)
  unfold State.planWrite
  split
  next sp _ _ _ _ _ _ _ => split <;> [exact h; exact written sp _ h]
  next => exact h

theorem State.CycleLaw.setWindowMode {s : State} (h : s.CycleLaw) (mode : Byte) :
    (s.setWindowMode mode).state.CycleLaw := by
  unfold State.setWindowMode
  split
  next m _ =>
    cases m with
    | schedule => exact h
    | forcedOpen => exact State.cycleLaw_openWindow _ .forced
    | forcedClosed =>
      exact State.CycleLaw.leaveOpen (s := s.withWindow { s.window with mode := .forcedClosed }) h .forced
  next => exact h

theorem State.commitGroups_active (s : State) (gs : List GroupNo) : (s.commitGroups gs).plan.active = s.plan.active := by
  induction gs generalizing s with
  | nil => rfl
  | cons g rest ih => rw [State.commitGroups, ih]; rfl

theorem State.CycleLaw.perform {s : State} (h : s.CycleLaw) (tag : Byte) (c : LinkCommand) :
    (s.perform tag c).state.CycleLaw := by
  cases c with
  | planWrite span enabled port group => exact h.planWrite span enabled port group
  | planSeek index =>
    change (s.planSeek index).state.CycleLaw
    unfold State.planSeek
    (repeat' split) <;> exact h
  | groupStage group pairs =>
    change (s.groupStage group pairs).state.CycleLaw
    unfold State.groupStage
    (repeat' split) <;> exact h
  | groupCommit groups =>
    change (s.groupCommit groups).state.CycleLaw
    unfold State.groupCommit
    (repeat' split)
    next => exact h
    next => exact h.congr (by simp [State.ok, State.commitGroups_active]) (by simp [State.ok])
    next => exact h
  | clockSet day hour minute second =>
    change (s.clockSet day hour minute second).state.CycleLaw
    unfold State.clockSet
    (repeat' split) <;> exact h
  | clockStep seconds => exact h.clockStep seconds
  | windowSet mask oh om ch cm =>
    change (s.windowSet mask oh om ch cm).state.CycleLaw
    unfold State.windowSet
    split <;> exact h
  | windowMode mode => exact h.setWindowMode mode
  | settingsWrite pairs =>
    change (s.settingsWrite pairs).state.CycleLaw
    unfold State.settingsWrite State.writeSettings
    (repeat' split) <;> exact h.same (by simp [State.ok, State.refuse]) (by simp [State.ok, State.refuse, State.storeSettings])
  | _ => exact h.same (by simp [State.perform]) (by simp [State.perform])

/-- After a reset no cycle is ACTIVE, but the one that RESTART starts in an OPEN window (R14, R35). -/
theorem ResetEvent.cycleLaw {s t : State} (e : ResetEvent s t) : t.CycleLaw := by
  cases e with
  | hardReset cause => exact State.cycleLaw_of_none rfl
  | resetEffect k =>
    cases k with
    | fullReset => exact State.cycleLaw_of_none rfl
    | restart =>
      have none : s.restartBlocks.plan.active = none := rfl
      unfold State.resetEffect State.restart
      dsimp only
      split
      next hw => exact (State.CycleLaw.startCycle (s := s.restartBlocks) hw).choose
      next => split <;> exact State.cycleLaw_of_none (by simpa using none)
      next => exact State.cycleLaw_of_none (by simpa using none)

theorem cycleLaw_keptByParts : KeptByParts State.CycleLaw where
  pending _ h := h
  link _ _ h := h
  command tag c h := h.perform tag c
  report h := h.same (by simp [State.reportTaken]) (by simp [State.reportTaken])
  shot e h := h.same (by cases e <;> simp) (by cases e <;> simp)
  clock e h := e.cycleLaw h
  sweep e h := e.cycleLaw h
  bank e h := h.same (by cases e <;> simp) (by cases e <;> simp)
  reset e _ := e.cycleLaw

/-- Settles O58: a cycle starts only in an OPEN window, and the window leaves OPEN only with the end of its cycle. -/
theorem everyStepKeepsTheCycleLaw : Obligations.EveryStepKeepsTheCycleLaw := by
  intro s t h ht
  exact cycleLaw_keptByParts.step_keeps h ht

end Sys2Proof.Machine

/-! The bounds of the intake FIFO and of the outstanding shots (R66, R67) under every step: a FIRE is issued only when
its samples are sure to fit, and a sample that enters the FIFO is one less to come. -/

namespace Sys2Proof.Machine

/-! ### Samples not yet received -/

/-- No block is open. -/
def Intake.idle : Intake → Bool
  | .opened _ => false
  | _ => true

theorem Intake.unreceived_le_bins (i : Intake) (x : Shot) : i.unreceived x ≤ x.bins := by
  cases i with
  | opened b => simp only [Intake.unreceived]; split <;> omega
  | _ => exact le_refl _

theorem Intake.unreceived_idle {i : Intake} (h : i.idle = true) (x : Shot) : i.unreceived x = x.bins := by
  cases i with
  | opened b => cases h
  | _ => rfl

/-- With no block open, every sample of the outstanding shots is still to come. -/
theorem Port.expected_idle {p : Port} (h : p.intake.idle = true) : p.expected = (p.outstanding.map (·.bins)).sum := by
  unfold Port.expected
  exact congrArg List.sum (List.map_congr_left fun x _ => Intake.unreceived_idle h x)

/-- The samples to come of the shots that a test keeps are no more than those of all. -/
theorem sum_map_filter_le {α : Type} (f : α → Nat) (keep : α → Bool) (l : List α) :
    ((l.filter keep).map f).sum ≤ (l.map f).sum := by
  induction l with
  | nil => exact le_refl _
  | cons a l ih =>
    rw [List.filter_cons]
    split <;> simp <;> omega

/-- The shots of other tags than the open block's have all their samples to come. -/
theorem Port.without_open_le {p : Port} {b : OpenBlock} (h : p.intake = .opened b) :
    ((p.without b.tag).map (·.bins)).sum ≤ p.expected := by
  have others : (p.without b.tag).map (·.bins) = (p.without b.tag).map p.intake.unreceived := by
    refine List.map_congr_left fun x hx => ?_
    have tag : x.tag ≠ b.tag := by simpa [Port.without] using (List.mem_filter.mp hx).2
    simp [h, Intake.unreceived, Ne.symm tag]
  rw [others]
  exact sum_map_filter_le _ _ _

/-- Without an entry of the tag, the list without the tag is the list. -/
theorem Port.without_of_shot_none {p : Port} {tag : Byte} (h : p.shot tag = none) : p.without tag = p.outstanding := by
  refine List.filter_eq_self.mpr fun x hx => ?_
  have := List.find?_eq_none.mp h x hx
  simpa using this

/-- A sample of the open block taken is one less to come. -/
theorem Port.expected_take_lt {p : Port} {b : OpenBlock} {x : Shot} (hi : p.intake = .opened b)
    (hx : p.shot b.tag = some x) (hlt : b.count < x.bins) (dark : Bool) (level : Half) :
    (p.outstanding.map (Intake.opened (b.take dark level)).unreceived).sum + 1 ≤ p.expected := by
  have hmem : x ∈ p.outstanding := List.mem_of_find?_eq_some hx
  have htag : x.tag = b.tag := by simpa using List.find?_some hx
  have each : ∀ y : Shot, (Intake.opened (b.take dark level)).unreceived y ≤ p.intake.unreceived y := fun y => by
    by_cases hy : b.tag = y.tag
    · simp only [hi, Intake.unreceived, OpenBlock.take, hy, if_true]
      omega
    · simp [hi, Intake.unreceived, OpenBlock.take, hy]
  have this_one : (Intake.opened (b.take dark level)).unreceived x < p.intake.unreceived x := by
    simp only [hi, Intake.unreceived, OpenBlock.take, htag, if_true]
    omega
  exact List.sum_lt_sum _ _ (fun y _ => each y) ⟨x, hmem, this_one⟩

/-! ### What the port does -/

/-- The law of the intake, of the port alone (R66, R67). -/
def Port.Law (p : Port) : Prop :=
  p.fifo.length + p.expected ≤ Config.fifoCapacity ∧ p.outstanding.length ≤ 2

/-- No more stands in the FIFO, no more is to come, and no more shots are outstanding. -/
theorem Port.Law.mono {p q : Port} (h : p.Law) (hf : q.fifo.length ≤ p.fifo.length) (he : q.expected ≤ p.expected)
    (ho : q.outstanding.length ≤ p.outstanding.length) : q.Law :=
  ⟨le_trans (Nat.add_le_add hf he) h.1, le_trans ho h.2⟩

/-- A FIRE that is admitted with fewer than two shots outstanding (R49, R66, R67). -/
theorem Port.law_fire {p : Port} {n : Nat} (hn : p.admits n = true) (hlt : p.outstanding.length < 2)
    (dark : Bool) (tag : Byte) :
    Port.Law { p with
      outstanding := p.outstanding ++ [{ tag := p.tagCounter, bins := n, dark := dark, discard := false }]
      tagCounter := tag } := by
  have room : p.fifo.length + p.expected + n ≤ Config.fifoCapacity := of_decide_eq_true hn
  have := p.intake.unreceived_le_bins { tag := p.tagCounter, bins := n, dark := dark, discard := false }
  refine ⟨?_, by simpa using hlt⟩
  simp only [Port.expected, List.map_append, List.sum_append, List.map_cons, List.map_nil, List.sum_cons,
    List.sum_nil] at room this ⊢
  omega

/-- The samples of shots marked for discard are still to come. -/
theorem Port.expected_marked (p : Port) :
    ((p.outstanding.map fun x => { x with discard := true }).map p.intake.unreceived).sum = p.expected := by
  unfold Port.expected
  rw [List.map_map]
  refine congrArg List.sum (List.map_congr_left fun x _ => ?_)
  cases p.intake <;> rfl

theorem Port.Law.discardSweep {p : Port} (h : p.Law) : p.discardSweep.Law := by
  have expected := p.expected_marked
  unfold Port.discardSweep
  dsimp only
  split
  next => exact h.mono (le_refl _) (le_of_eq expected) (by simp)
  next =>
    refine h.mono ?_ (le_of_eq expected) (by simp)
    simp only [List.length_append, List.length_take, List.length_drop]
    omega

/-- A block that ends with its entry gone: nothing is open any more. -/
theorem Port.Law.endBlock {p : Port} (h : p.Law) {b : OpenBlock} (hi : p.intake = .opened b) {fifo : List Half}
    (hf : fifo.length ≤ p.fifo.length) (list : List AccumBlock) :
    Port.Law { p with
      intake := .noBlock, outstanding := p.without b.tag, fifo := fifo, accumulation := list } := by
  refine h.mono hf ?_ (List.length_filter_le _ _)
  rw [Port.expected_idle rfl]
  exact p.without_open_le hi

theorem Port.dropOpen_le (p : Port) (b : OpenBlock) : (p.dropOpen b).length ≤ p.fifo.length := by
  simp [Port.dropOpen]

/-- A block whose shot is no longer outstanding ends. -/
theorem Port.Law.endStale {p : Port} (h : p.Law) {b : OpenBlock} (hi : p.intake = .opened b)
    (hx : p.shot b.tag = none) : Port.Law { p with intake := .noBlock, fifo := p.dropOpen b } := by
  have := h.endBlock hi (p.dropOpen_le b) p.accumulation
  rwa [Port.without_of_shot_none hx] at this

theorem Port.Law.judged {p : Port} (h : p.Law) {b : OpenBlock} (hi : p.intake = .opened b) (x : Shot) (j : Judgement)
    (bank : Option BankName) : (p.judged x b j bank).Law := by
  unfold Port.judged
  split
  next => exact h.endBlock hi (le_refl _) _
  next => exact h.endBlock hi (p.dropOpen_le b) _

theorem Port.Law.lose {p : Port} (h : p.Law) (tag : Byte) : (p.lose tag).Law := by
  have gone : Port.Law { p with outstanding := p.without tag } :=
    h.mono (le_refl _) (sum_map_filter_le _ _ _) (List.length_filter_le _ _)
  unfold Port.lose
  split
  next b hi =>
    split
    next hb =>
      subst hb
      exact h.endBlock hi (p.dropOpen_le b) _
    next => exact gone
  next => exact gone

/-- With no block open before and after, the intake state is free (R68, R70). -/
theorem Port.Law.withIdle {p : Port} (h : p.Law) (hi : p.intake.idle = true) {i : Intake} (hi' : i.idle = true)
    (n : Nat) : Port.Law { p with intake := i, stray := n } := by
  refine h.mono (le_refl _) ?_ (le_refl _)
  rw [Port.expected_idle hi, Port.expected_idle hi']

theorem Port.Law.takeHeader {p : Port} (h : p.Law) (hi : p.intake.idle = true) (tag : Byte) (bins : Half) :
    (p.takeHeader tag bins).Law := by
  unfold Port.takeHeader
  split
  next =>
    refine h.mono (le_refl _) ?_ (le_refl _)
    rw [Port.expected_idle hi]
    exact List.sum_le_sum fun x _ => Intake.unreceived_le_bins _ x
  next => exact h.withIdle hi rfl _

theorem Port.Law.endSumming {p : Port} (h : p.Law) (n : BankName) : (p.endSumming n).Law := by
  unfold Port.endSumming
  split
  next => split <;> [exact h.mono (by simp) (le_refl _) (le_refl _); exact h]
  next => exact h

/-! ### The engine's tests and judgements -/

theorem State.IntakeLaw.congr {s t : State} (h : s.IntakeLaw) (ht : t.port = s.port) : t.IntakeLaw := by
  unfold State.IntakeLaw
  rwa [ht]

theorem State.IntakeLaw.choose {s : State} (h : s.IntakeLaw) : s.choose.IntakeLaw :=
  h.congr (by simp)

theorem State.IntakeLaw.nextFree {s : State} (h : s.IntakeLaw) : s.nextFree.IntakeLaw := h

theorem State.IntakeLaw.setTime {s : State} (h : s.IntakeLaw) (x : TimeOfWeek) : (s.setTime x).IntakeLaw := h

theorem State.IntakeLaw.closeCycle {s : State} (h : s.IntakeLaw) : s.closeCycle.IntakeLaw :=
  h.congr (by simp)

theorem State.IntakeLaw.withPort {s : State} {p : Port} (h : p.Law) : (s.withPort p).IntakeLaw := h

theorem State.IntakeLaw.port {s : State} (h : s.IntakeLaw) : s.port.Law := h

theorem State.intakeLaw_fire {s : State} {c : SweepContext} (hn : s.port.admits c.settings.binCount = true)
    (hlt : s.port.outstanding.length < 2) (dark : Bool) : (s.fire c dark).IntakeLaw :=
  Port.law_fire hn hlt dark _

theorem State.IntakeLaw.fireTest {s : State} (h : s.IntakeLaw) (c : SweepContext) : (s.fireTest c).IntakeLaw := by
  unfold State.fireTest
  split
  next hdue =>
    simp only [State.fireDue, Bool.and_eq_true, decide_eq_true_eq] at hdue
    obtain ⟨_, ⟨hlt, _⟩, hn⟩ := hdue
    split <;> [exact State.intakeLaw_fire hn hlt false; exact h]
  next => exact h

theorem State.IntakeLaw.retest {s : State} (h : s.IntakeLaw) : s.retest.IntakeLaw := by
  unfold State.retest
  split
  next => exact h
  next c _ =>
    split
    next =>
      unfold State.darkTest
      split
      next hdue =>
        simp only [Bool.and_eq_true, List.isEmpty_iff] at hdue
        exact State.intakeLaw_fire hdue.2 (by simp [hdue.1]) true
      next => exact h
    next => exact (h.fireTest c).fireTest c
    next => exact h

theorem State.IntakeLaw.decideOutcome {s : State} (h : s.IntakeLaw) (o : EngineOutcome) :
    (s.decideOutcome o).IntakeLaw :=
  h.port.discardSweep

theorem State.IntakeLaw.takeJudgement {s : State} (h : s.IntakeLaw) (c : SweepContext) (dark : Bool) (j : Judgement) :
    (s.takeJudgement c dark j).IntakeLaw := by
  have tallied : (s.setContext (c.tally dark j)).IntakeLaw := h.congr (by simp)
  unfold State.takeJudgement State.endByJudgement
  split
  next o _ => split <;> exact tallied.decideOutcome o
  next =>
    split
    next => exact State.IntakeLaw.retest (tallied.congr (by simp))
    next => exact tallied.retest

theorem State.IntakeLaw.deliver {s : State} (h : s.IntakeLaw) (dark : Bool) (j : Judgement) :
    (s.deliver dark j).IntakeLaw := by
  unfold State.deliver
  split
  next => exact h
  next c _ =>
    split
    next => exact h.takeJudgement c _ j
    next => exact h.takeJudgement c _ j
    next => exact h.takeJudgement c _ j
    next => exact h

/-! ### The intake state stands while the engine takes a judgement -/

@[simp] theorem State.fire_intake (s : State) (c : SweepContext) (dark : Bool) :
    (s.fire c dark).port.intake = s.port.intake := rfl

@[simp] theorem State.retest_intake (s : State) : s.retest.port.intake = s.port.intake := by
  unfold State.retest State.darkTest State.fireTest
  (repeat' split) <;> simp

@[simp] theorem State.decideOutcome_intake (s : State) (o : EngineOutcome) :
    (s.decideOutcome o).port.intake = s.port.intake := by
  unfold State.decideOutcome Port.discardSweep
  dsimp only
  split <;> simp

@[simp] theorem State.deliver_intake (s : State) (dark : Bool) (j : Judgement) :
    (s.deliver dark j).port.intake = s.port.intake := by
  have taken : ∀ c, (s.takeJudgement c dark j).port.intake = s.port.intake := fun c => by
    unfold State.takeJudgement State.endByJudgement
    (repeat' split) <;> simp
  unfold State.deliver
  split
  next => rfl
  next c _ =>
    split
    next => exact taken c
    next => exact taken c
    next => exact taken c
    next => rfl

/-! ### Words of the front end, and sums -/

theorem State.IntakeLaw.tear {s : State} (h : s.IntakeLaw) {b : OpenBlock} (hi : s.port.intake = .opened b) :
    (s.tear b).IntakeLaw ∧ (s.tear b).port.intake = .noBlock := by
  unfold State.tear
  split
  next x _ =>
    have torn := State.IntakeLaw.withPort (s := s)
      (h.port.endBlock hi (s.port.dropOpen_le b) s.port.accumulation)
    exact ⟨torn.deliver x.dark .torn, by simp⟩
  next hx => exact ⟨h.port.endStale hi hx, rfl⟩

theorem State.IntakeLaw.headerArrives {s : State} (h : s.IntakeLaw) (tag : Byte) (bins : Half) :
    (s.headerArrives tag bins).IntakeLaw := by
  unfold State.headerArrives
  split
  next b hi =>
    obtain ⟨law, noBlock⟩ := h.tear hi
    exact law.port.takeHeader (by simp [noBlock, Intake.idle]) tag bins
  next hi =>
    refine h.port.takeHeader ?_ tag bins
    cases hp : s.port.intake with
    | opened b => exact absurd hp (hi b)
    | _ => rfl

theorem State.IntakeLaw.sampleArrives {s : State} (h : s.IntakeLaw) (level : Half) : (s.sampleArrives level).IntakeLaw := by
  unfold State.sampleArrives
  split
  next b hi =>
    split
    next x hx =>
      split
      next hlt =>
        have fewer := Port.expected_take_lt hi hx hlt x.dark level
        obtain ⟨hfifo, hshots⟩ := h
        refine ⟨?_, hshots⟩
        simp only [State.withPort_port, List.length_append, List.length_singleton, Port.expected] at hfifo fewer ⊢
        omega
      next =>
        refine h.port.mono (le_refl _) (le_of_eq ?_) (le_refl _)
        simp only [Port.expected, hi]
        rfl
    next => exact h
  next => exact h

theorem State.IntakeLaw.trailerArrives {s : State} (h : s.IntakeLaw) (saturated : Bool) :
    (s.trailerArrives saturated).IntakeLaw := by
  unfold State.trailerArrives
  split
  next b hi =>
    split
    next x _ => exact State.IntakeLaw.deliver (State.IntakeLaw.withPort (h.port.judged hi x _ _)) _ _
    next hx => exact h.port.endStale hi hx
  next hi => exact h.port.withIdle (by simp [hi, Intake.idle]) rfl _
  next => exact h

theorem State.IntakeLaw.shotExpires {s : State} (h : s.IntakeLaw) (tag : Byte) : (s.shotExpires tag).IntakeLaw := by
  unfold State.shotExpires
  split
  next => exact State.IntakeLaw.deliver (State.IntakeLaw.withPort (h.port.lose tag)) _ _
  next => exact h

theorem State.IntakeLaw.sumSample {s : State} (h : s.IntakeLaw) : s.sumSample.IntakeLaw := by
  unfold State.sumSample
  split
  next hf =>
    split
    next => exact State.IntakeLaw.retest (h.port.mono (by simp [hf]) (le_refl _) (le_refl _))
    next => exact h
  next => exact h

theorem State.IntakeLaw.completeAccumulation {s : State} (h : s.IntakeLaw) : s.completeAccumulation.IntakeLaw := by
  unfold State.completeAccumulation
  split
  next =>
    split
    next => exact State.IntakeLaw.retest (h.port.mono (le_refl _) (le_refl _) (le_refl _))
    next => exact h
  next => exact h

/-! ### The selector, the settle timer, the thermal gate -/

theorem State.IntakeLaw.enterDarkCheck {s : State} (h : s.IntakeLaw) : s.enterDarkCheck.IntakeLaw :=
  State.IntakeLaw.retest (s := s.setEngineState .darkCheck) h

theorem State.IntakeLaw.select {s : State} (h : s.IntakeLaw) (c : SweepContext) : (s.select c).IntakeLaw := by
  unfold State.select
  split
  next => split <;> [(split <;> [exact h.enterDarkCheck; exact h]); exact h]
  next => exact h
  next => exact h

theorem State.IntakeLaw.selectorSettles {s : State} (h : s.IntakeLaw) (p : SelPort) (sel : Selector) :
    (s.selectorSettles p sel).IntakeLaw := by
  have settled : (s.withEngine { s.engine with selector := sel, selectorTimer := none }).IntakeLaw := h
  unfold State.selectorSettles State.selectorLeft
  split
  next => exact settled
  next c _ => split <;> [(split <;> [exact settled.decideOutcome .noPort; exact settled.select c]); exact settled]

theorem State.IntakeLaw.selectorFails {s : State} (h : s.IntakeLaw) (p : SelPort) : (s.selectorFails p).IntakeLaw :=
  State.IntakeLaw.selectorSettles (s := s.raise .selectorFault) h p .unknown

theorem State.IntakeLaw.statusArrives {s : State} (h : s.IntakeLaw) (temperature : Int) :
    (s.statusArrives temperature).IntakeLaw := by
  have gate : ∀ g : Gate, (s.withPort { s.port with gate := g }).IntakeLaw := fun _ => h
  unfold State.statusArrives
  split
  next => exact h
  next =>
    split
    next =>
      split
      next => exact State.IntakeLaw.retest (s := (s.withPort { s.port with gate := .hot }).raise .thermal) (gate .hot)
      next => exact h
    next =>
      split
      next =>
        unfold State.resumeFiring
        split
        next => exact State.IntakeLaw.retest (gate .cool)
        next => exact (gate .cool).retest
      next => exact h

theorem ShotEvent.intakeLaw {s t : State} (e : ShotEvent s t) (h : s.IntakeLaw) : t.IntakeLaw := by
  cases e with
  | selectorSet port =>
    unfold State.selectorSet
    split
    next => split <;> [exact h.selectorSettles _ _; exact h.selectorFails _]
    next => exact h
  | selectorFault =>
    unfold State.selectorFault
    split <;> [exact h.selectorFails _; exact h]
  | selectorExpires =>
    unfold State.selectorExpires
    split <;> [exact h.selectorFails _; exact h]
  | settleExpires =>
    unfold State.settleExpires
    split
    next => exact State.IntakeLaw.enterDarkCheck h
    next => exact h
  | hotHoldExpires =>
    unfold State.hotHoldExpires
    split <;> [exact h.decideOutcome .hot; exact h]
  | headerArrives tag bins => exact h.headerArrives tag bins
  | sampleArrives level => exact h.sampleArrives level
  | trailerArrives saturated => exact h.trailerArrives saturated
  | statusArrives temperature => exact h.statusArrives temperature
  | shotExpires tag => exact h.shotExpires tag
  | sumSample => exact h.sumSample
  | completeAccumulation => exact h.completeAccumulation

/-! ### The window's cut -/

theorem State.IntakeLaw.graceEnds {s : State} (h : s.IntakeLaw) : s.graceEnds.IntakeLaw := by
  have expired : (s.withWindow { s.window with grace := .expired }).IntakeLaw := h
  unfold State.graceEnds State.cut
  split
  next =>
    split
    next => exact expired
    next => split <;> [exact expired.decideOutcome .cut; exact expired]
  next => exact h.congr (by simp)

theorem State.IntakeLaw.shutWindow {s : State} (h : s.IntakeLaw) : s.shutWindow.IntakeLaw := by
  unfold State.shutWindow State.enterClosing
  dsimp only
  split
  next => split <;> [exact State.IntakeLaw.graceEnds h; exact h]
  next => exact h.congr (by simp)

theorem State.IntakeLaw.leaveOpen {s : State} (h : s.IntakeLaw) (cause : EdgeCause) : (s.leaveOpen cause).IntakeLaw := by
  have recorded : (s.withWindow { s.window with closeCause := some cause }).IntakeLaw := h
  unfold State.leaveOpen State.inFreeOrder
  dsimp only
  split
  next =>
    split
    next => exact recorded.closeCycle.shutWindow.nextFree.choose
    next => exact recorded.shutWindow.closeCycle.nextFree.choose
  next => exact h

theorem State.IntakeLaw.evaluateMatches {s : State} (h : s.IntakeLaw) (cause : EdgeCause) :
    (s.evaluateMatches cause).IntakeLaw := by
  unfold State.evaluateMatches
  split
  next => split <;> [exact h.congr (by simp); split <;> [exact h.leaveOpen cause; exact h]]
  next => exact h

theorem State.IntakeLaw.secondPasses {s : State} (h : s.IntakeLaw) : s.secondPasses.IntakeLaw := by
  have passed : (s.withWindow { s.window with time := s.window.time.next, divider := 0 }).IntakeLaw := h
  unfold State.secondPasses
  dsimp only
  split <;> [exact passed.evaluateMatches .matched; exact passed]

theorem ClockEvent.intakeLaw {s t : State} (e : ClockEvent s t) (h : s.IntakeLaw) : t.IntakeLaw := by
  cases e with
  | refclkEdge =>
    unfold State.refclkEdge
    split
    next => split <;> [exact h; exact h.secondPasses]
    next => exact h
  | secondEvent =>
    unfold State.secondEvent
    split <;> [exact h.secondPasses; exact h]
  | referenceLost =>
    unfold State.referenceLost
    split
    next => exact h
    next =>
      have lost : ((s.withWindow { s.window with reference := .lost, integrity := .invalid }).raise
        .clockLost).IntakeLaw := h
      dsimp only
      split <;> [exact lost.leaveOpen _; exact lost]
  | referencePresent => exact h
  | graceExpires =>
    unfold State.graceExpires
    split <;> [exact h.graceEnds; exact h]

/-! ### Sweeps, commands and resets -/

theorem SourceTaken.port {s t : State} (h : SourceTaken s t) : t.port = s.port := by
  cases h <;> simp

theorem State.IntakeLaw.beginSweep {s : State} (h : s.IntakeLaw) (x : Source) (n : BankName) :
    (s.beginSweep x n).IntakeLaw := by
  have summed : (s.withPort (s.port.endSumming n)).IntakeLaw := h.port.endSumming n
  unfold State.beginSweep
  exact State.IntakeLaw.select (summed.congr (by simp)) _

theorem SweepEvent.intakeLaw {s t : State} (e : SweepEvent s t) (h : s.IntakeLaw) : t.IntakeLaw := by
  cases e with
  | sweepStart =>
    rcases s.sweepStart_cases with hs | hs | ⟨t, x, n, _, _, taken, hs⟩ <;> rw [hs]
    · exact h
    · exact h.choose
    · exact (h.congr taken.port).beginSweep x n
  | _ => exact h.congr (by simp)

theorem State.IntakeLaw.replay {s : State} (h : s.IntakeLaw) (n m : Nat) : (s.replay n m).IntakeLaw := by
  induction n generalizing s m with
  | zero => exact h
  | succ n ih =>
    have matched := State.IntakeLaw.evaluateMatches (s := s.setTime (.ofSeconds (m * 60))) h .stepped
    exact ih (matched.congr (by simp [State.replayBoundary])) (m + 1)

theorem State.IntakeLaw.stepForward {s : State} (h : s.IntakeLaw) (k : Nat) : (s.stepForward k).IntakeLaw := by
  unfold State.stepForward
  exact (h.replay _ _).setTime _

theorem State.IntakeLaw.clockStep {s : State} (h : s.IntakeLaw) (seconds : Half) :
    (s.clockStep seconds).state.IntakeLaw := by
  unfold State.clockStep
  split
  next => exact h
  next => split <;> [exact h; split <;> [exact h.stepForward _; exact h.congr (by simp [State.ok])]]

theorem State.IntakeLaw.setWindowMode {s : State} (h : s.IntakeLaw) (mode : Byte) :
    (s.setWindowMode mode).state.IntakeLaw := by
  unfold State.setWindowMode
  split
  next m _ =>
    cases m with
    | schedule => exact h
    | forcedOpen => exact h.congr (by simp [State.ok, State.enterMode])
    | forcedClosed =>
      exact State.IntakeLaw.leaveOpen (s := s.withWindow { s.window with mode := .forcedClosed }) h .forced
  next => exact h

theorem State.IntakeLaw.testNow {s : State} (h : s.IntakeLaw) (span retain : Byte) :
    (s.testNow span retain).state.IntakeLaw := by
  have served : ∀ {u : State} (sp : Span) (r : Bool), u.IntakeLaw → (u.serveTest sp r).IntakeLaw :=
    fun {u} sp r hu => by
      have filled : (u.fillSlot sp).IntakeLaw := hu.congr (by simp)
      unfold State.serveTest
      split
      next => exact filled
      next => exact filled
      next => exact filled
      next c _ _ _ _ _ =>
        split
        next => exact hu.congr (by simp)
        next =>
          split
          next => exact State.IntakeLaw.decideOutcome (filled.congr (by simp)) .preempted
          next => exact filled
      next => exact filled
  unfold State.testNow
  split
  next sp r _ _ =>
    split
    next => exact h
    next => split <;> [exact h; split <;> [exact h; exact served sp r (h.congr (by simp))]]
  next => exact h

theorem State.IntakeLaw.perform {s : State} (h : s.IntakeLaw) (tag : Byte) (c : LinkCommand) :
    (s.perform tag c).state.IntakeLaw := by
  cases c with
  | clockStep seconds => exact h.clockStep seconds
  | windowMode mode => exact h.setWindowMode mode
  | testNow span retain => exact h.testNow span retain
  | settingsWrite pairs =>
    change (s.settingsWrite pairs).state.IntakeLaw
    have stored : ∀ x, (s.storeSettings x).IntakeLaw := fun _ => h
    unfold State.settingsWrite State.writeSettings
    (repeat' split)
    next => exact stored _
    next x _ _ _ => exact (stored x).congr (by simp [State.ok])
    next => exact h
    next => exact h
    next => exact h
  | _ => exact h.congr (by simp [State.perform])

/-- After a reset the FIFO is empty and no shot is outstanding (R79). -/
theorem ResetEvent.intakeLaw {s t : State} (e : ResetEvent s t) : t.IntakeLaw := by
  have initial : ∀ {u : State}, u.port.fifo = [] → u.port.outstanding = [] → u.IntakeLaw := fun hf ho => by
    simp [State.IntakeLaw, hf, ho, Port.expected]
  cases e with
  | hardReset cause => exact initial rfl rfl
  | resetEffect k =>
    cases k with
    | fullReset => exact initial rfl rfl
    | restart =>
      have blocks : s.restartBlocks.IntakeLaw := initial rfl rfl
      unfold State.resetEffect State.restart
      dsimp only
      (repeat' split) <;> exact blocks.congr (by simp)

theorem intakeLaw_keptByParts : KeptByParts State.IntakeLaw where
  pending _ h := h
  link _ _ h := h
  command tag c h := h.perform tag c
  report h := h.congr (by simp [State.reportTaken])
  shot e h := e.intakeLaw h
  clock e h := e.intakeLaw h
  sweep e h := e.intakeLaw h
  bank e h := h.congr (by cases e <;> simp)
  reset e _ := e.intakeLaw

/-- Settles O56: a FIRE is issued under the admission condition alone, and nothing else adds to FIFO and expected samples. -/
theorem everyStepKeepsTheIntakeLaw : Obligations.EveryStepKeepsTheIntakeLaw := by
  intro s t h ht
  exact intakeLaw_keptByParts.step_keeps h ht

end Sys2Proof.Machine

/-! The laws of the re-check queue and of the condition entries (R146, R134, R110) under every step. -/

namespace Sys2Proof.Machine

/-! ### What the three laws read -/

/-- The laws of the re-check queue and of the condition entries. -/
def State.JudgedLaws (s : State) : Prop :=
  s.RecheckLaw ∧ s.ConditionLaw ∧ s.FaultedLaw

/-- Condition unit, plan entries and baselines stand as they were. -/
def SameJudged (s t : State) : Prop :=
  t.conditions = s.conditions ∧ t.plan.entries = s.plan.entries ∧ t.baselines = s.baselines

theorem SameTables.sameJudged {s t : State} (h : SameTables s t) (hc : t.conditions = s.conditions) :
    SameJudged s t :=
  ⟨hc, h.1, h.2.2⟩

theorem State.admissible_congr {s t : State} (he : t.plan.entries = s.plan.entries) (hb : t.baselines = s.baselines)
    (sp : Span) : t.admissible sp = s.admissible sp := by
  simp only [State.admissible, State.entry, State.slot, he, hb]

theorem State.JudgedLaws.congr {s t : State} (h : s.JudgedLaws) (ht : SameJudged s t) : t.JudgedLaws := by
  obtain ⟨conditions, entries, baselines⟩ := ht
  simpa only [State.JudgedLaws, State.RecheckLaw, State.ConditionLaw, State.FaultedLaw, State.condition, State.slot,
    State.admissible_congr entries baselines, conditions, baselines] using h

theorem State.reset_judgedLaws : State.reset.JudgedLaws := by
  have unknown : ∀ sp, State.reset.condition sp = .initial := fun sp => tableGet_replicate _ _
  refine ⟨⟨Nat.zero_le _, List.nodup_nil, by simp [State.reset, Conditions.initial]⟩, fun sp => ?_, fun sp hsp => ?_⟩
  · simp [unknown, ConditionEntry.Law, ConditionEntry.initial]
  · simp [unknown, ConditionEntry.initial] at hsp

/-! ### The re-check queue -/

/-- The queue may be `q`: as short, as free of repetition and as admissible as R146 says. -/
def State.RecheckMayBe (s : State) (q : List RecheckEntry) : Prop :=
  q.length ≤ Config.recheckSlots ∧ (q.map (·.span)).Nodup ∧ ∀ sp ∈ q.map (·.span), s.admissible sp = true

theorem State.recheckLaw_iff (s : State) : s.RecheckLaw ↔ s.RecheckMayBe s.conditions.recheck := by
  simp [State.RecheckLaw, State.RecheckMayBe]

/-- Entries may leave the queue. -/
theorem State.RecheckMayBe.sublist {s : State} {q r : List RecheckEntry} (h : s.RecheckMayBe q) (hr : r.Sublist q) :
    s.RecheckMayBe r := by
  obtain ⟨length, nodup, admissible⟩ := h
  have spans := hr.map (·.span)
  exact ⟨hr.length_le.trans length, nodup.sublist spans, fun sp hsp => admissible sp (spans.subset hsp)⟩

/-- Entries may change their order. -/
theorem State.RecheckMayBe.perm {s : State} {q r : List RecheckEntry} (h : s.RecheckMayBe q) (hr : r.Perm q) :
    s.RecheckMayBe r := by
  obtain ⟨length, nodup, admissible⟩ := h
  have spans := hr.map (·.span)
  exact ⟨hr.length_eq.trans_le length, spans.nodup_iff.mpr nodup, fun sp hsp => admissible sp (spans.subset hsp)⟩

/-- Entries may change their reasons. -/
theorem State.RecheckMayBe.sameSpans {s : State} {q r : List RecheckEntry} (h : s.RecheckMayBe q)
    (hr : r.map (·.span) = q.map (·.span)) : s.RecheckMayBe r := by
  have length : r.length = q.length := by simpa using congrArg List.length hr
  unfold State.RecheckMayBe
  rwa [hr, length]

/-- An entry that the queue takes may stand at its head (R147, R148). -/
theorem State.RecheckMayBe.cons {s : State} {q : List RecheckEntry} (h : s.RecheckMayBe q) {e : RecheckEntry}
    (hlt : q.length < Config.recheckSlots) (hq : ∀ x ∈ q, x.span ≠ e.span) (ha : s.admissible e.span = true) :
    s.RecheckMayBe (e :: q) := by
  obtain ⟨_, nodup, admissible⟩ := h
  refine ⟨hlt, ?_, fun sp hsp => ?_⟩
  · simpa [List.nodup_cons, nodup] using hq
  · rcases List.mem_cons.mp hsp with rfl | hmem <;> [exact ha; exact admissible sp hmem]

theorem State.JudgedLaws.setRecheck {s : State} (h : s.JudgedLaws) {q : List RecheckEntry} (hq : s.RecheckMayBe q) :
    (s.setRecheck q).JudgedLaws := by
  obtain ⟨_, conditions, faulted⟩ := h
  exact ⟨(State.recheckLaw_iff _).mpr hq, conditions, faulted⟩

theorem State.JudgedLaws.recheck {s : State} (h : s.JudgedLaws) : s.RecheckMayBe s.conditions.recheck :=
  (s.recheckLaw_iff).mp h.1

theorem State.JudgedLaws.choose {s : State} (h : s.JudgedLaws) : s.choose.JudgedLaws :=
  h.congr (by simp [SameJudged])

theorem State.JudgedLaws.raise {s : State} (h : s.JudgedLaws) (k : NoticeKind) : (s.raise k).JudgedLaws :=
  h.congr (by simp [SameJudged])

/-- What the answer `joined` says of the queue and the span (R147). -/
theorem State.recheckAnswer_joined {s : State} {sp : Span} (h : s.recheckAnswer sp = .joined) :
    s.admissible sp = true ∧ (∀ x ∈ s.conditions.recheck, x.span ≠ sp) ∧
      s.conditions.recheck.length < Config.recheckSlots := by
  unfold State.recheckAnswer at h
  split at h
  next => cases h
  next hadmissible =>
    split at h
    next => cases h
    next hqueued =>
      split at h
      next => cases h
      next hlength =>
        simp only [State.queued, List.any_eq_true, beq_iff_eq, not_exists, not_and] at hqueued
        exact ⟨by simpa using hadmissible, hqueued, by omega⟩

theorem State.JudgedLaws.requestTail {s : State} (h : s.JudgedLaws) (sp : Span) (reason : RecheckReason) :
    (s.requestTail sp reason).JudgedLaws := by
  unfold State.requestTail
  split
  next => exact h
  next => exact (h.setRecheck (h.recheck.sameSpans (updateRecheck_spans sp reason _))).choose
  next => exact h.raise .recheckFull
  next hjoined =>
    obtain ⟨admissible, fresh, length⟩ := State.recheckAnswer_joined hjoined
    have head := h.recheck.cons (e := { span := sp, reason := reason }) length fresh admissible
    exact (h.setRecheck (head.perm (List.perm_append_singleton _ _))).choose

theorem moveToHead_perm (sp : Span) (q : List RecheckEntry) : (moveToHead sp q).Perm q :=
  List.filter_append_perm (fun e : RecheckEntry => e.span == sp) q

theorem State.JudgedLaws.requestHead {s : State} (h : s.JudgedLaws) (sp : Span) (cls : PulseClass) :
    (s.requestHead sp cls).JudgedLaws := by
  unfold State.requestHead
  split
  next => exact h
  next => exact (h.setRecheck (h.recheck.perm (moveToHead_perm sp _))).choose
  next => exact h.raise .recheckFull
  next hjoined =>
    obtain ⟨admissible, fresh, length⟩ := State.recheckAnswer_joined hjoined
    exact (h.setRecheck (h.recheck.cons length fresh admissible)).choose

theorem State.JudgedLaws.removeConfirm {s : State} (h : s.JudgedLaws) (sp : Span) : (s.removeConfirm sp).JudgedLaws := by
  unfold State.removeConfirm
  split
  next => exact (h.setRecheck (h.recheck.sublist List.filter_sublist)).choose
  next => exact h

/-- A span left out of the queue need not be admissible any more (R149). -/
theorem State.RecheckLaw.without {s t : State} (h : s.RecheckLaw) (sp : Span)
    (ht : t.conditions.recheck = s.conditions.recheck.filter fun e => e.span != sp)
    (ha : ∀ i, i ≠ sp → t.admissible i = s.admissible i) : t.RecheckLaw := by
  rw [State.recheckLaw_iff] at h ⊢
  rw [ht]
  obtain ⟨length, nodup, admissible⟩ := h.sublist (r := s.conditions.recheck.filter fun e => e.span != sp)
    List.filter_sublist
  refine ⟨length, nodup, fun i hi => ?_⟩
  have hne : i ≠ sp := by
    obtain ⟨e, he, rfl⟩ := List.mem_map.mp hi
    simpa using (List.mem_filter.mp he).2
  rw [ha i hne]
  exact admissible i hi

/-! ### The condition entries -/

theorem State.ConditionLaw.setCondition {s : State} (h : s.ConditionLaw) (sp : Span) {e : ConditionEntry} (he : e.Law) :
    (s.setCondition sp e).ConditionLaw := fun i => by
  by_cases hi : i = sp
  · rw [hi, State.condition_setCondition]
    exact he
  · rw [State.condition_setCondition_ne _ hi]
    exact h i

/-- An entry that keeps its law may be written; one that is SUSPECT or FAULTED, where a baseline is present. -/
theorem State.JudgedLaws.setCondition {s : State} (h : s.JudgedLaws) (sp : Span) {e : ConditionEntry} (he : e.Law)
    (hf : e.state = .suspect ∨ e.state = .faulted → (s.slot sp).record.isSome = true) :
    (s.setCondition sp e).JudgedLaws := by
  obtain ⟨recheck, conditions, faulted⟩ := h
  refine ⟨recheck, conditions.setCondition sp he, fun i hi => ?_⟩
  by_cases hsp : i = sp
  · subst hsp
    rw [State.condition_setCondition] at hi
    exact hf hi
  · rw [State.condition_setCondition_ne _ hsp] at hi
    exact faulted i hi

theorem ConditionEntry.setBack_law (e : ConditionEntry) : e.setBack.Law := by
  simp [ConditionEntry.Law, ConditionEntry.setBack]

theorem ConditionEntry.cleared_law (e : ConditionEntry) : e.cleared.Law := by
  simp [ConditionEntry.Law, ConditionEntry.cleared]

theorem ConditionEntry.faulted_law (e : ConditionEntry) (f : Finding) : (e.faulted f).Law := by
  simp [ConditionEntry.Law, ConditionEntry.faulted]

theorem ConditionEntry.Law.judgeClean {e : ConditionEntry} (h : e.Law) (n : Nat) : (e.judgeClean n).entry.Law := by
  unfold ConditionEntry.judgeClean
  split
  next => exact e.cleared_law
  next => exact h
  next => exact e.cleared_law
  next hs =>
    split
    next => exact e.cleared_law
    next => simpa [ConditionEntry.Law, Verdict.unchanged, hs] using h

theorem ConditionEntry.judgeFresh_law (e : ConditionEntry) (f : Finding) (confirm : Bool) :
    (e.judgeFresh f confirm).entry.Law := by
  unfold ConditionEntry.judgeFresh
  split
  next => simp [ConditionEntry.Law]
  next => exact e.faulted_law f

theorem ConditionEntry.Law.judgeSuspect {e : ConditionEntry} (h : e.Law) (hs : e.state = .suspect) (f : Finding)
    (tolerance : Nat) : (e.judgeSuspect f tolerance).entry.Law := by
  unfold ConditionEntry.judgeSuspect
  split
  next => exact e.faulted_law f
  next =>
    split
    next => exact e.faulted_law f
    next hfew =>
      obtain ⟨_, _, _, streak⟩ := h
      refine ⟨by simp [hs], by simp [hs], by simpa [Nat.lt_succ_iff] using hfew, fun _ => streak (by simp [hs])⟩

theorem ConditionEntry.Law.judgeFaulted {e : ConditionEntry} (h : e.Law) (hs : e.state = .faulted) (f : Finding)
    (tolerance : Nat) : (e.judgeFaulted f tolerance).entry.Law := by
  obtain ⟨lead, attempts, few, _⟩ := h
  unfold ConditionEntry.judgeFaulted
  split
  next => exact ⟨lead, attempts, few, fun _ => rfl⟩
  next => exact ⟨by simp [hs], attempts, few, fun _ => rfl⟩

theorem ConditionEntry.Law.judge {e : ConditionEntry} (h : e.Law) (l : List Finding) (tolerance : Nat) (confirm : Bool)
    (clearCount : Nat) : (e.judge l tolerance confirm clearCount).entry.Law := by
  unfold ConditionEntry.judge
  split
  next => exact h.judgeClean clearCount
  next f _ =>
    split
    next => exact e.judgeFresh_law f confirm
    next => exact e.judgeFresh_law f confirm
    next hs => exact h.judgeSuspect hs f tolerance
    next hs => exact h.judgeFaulted hs f tolerance

/-! ### A result taken -/

theorem State.JudgedLaws.applyVerdict {s : State} (h : s.JudgedLaws) (sp : Span) (was : Condition) {v : Verdict}
    (hv : v.entry.Law) (hslot : (s.slot sp).record.isSome = true) : (s.applyVerdict sp was v).JudgedLaws := by
  have judged := h.setCondition sp hv fun _ => hslot
  unfold State.applyVerdict
  dsimp only
  split
  next => exact judged.requestTail sp .confirm
  next => split <;> [exact judged.removeConfirm sp; exact judged]

theorem State.JudgedLaws.judgeAnalysed {s : State} (h : s.JudgedLaws) (r : AnalysisResult) (l : FindingList)
    (hslot : (s.slot r.context.span).record.isSome = true) : (s.judgeAnalysed r l).state.JudgedLaws := by
  have law := (h.2.1 r.context.span).judge l.findings r.tolerance r.confirm r.clearCount
  exact (h.applyVerdict r.context.span (s.condition r.context.span).state law hslot).congr
    (by simp [SameJudged, State.judgeAnalysed])

theorem State.JudgedLaws.judgeCurrent {s : State} (h : s.JudgedLaws) (r : AnalysisResult)
    (hslot : (s.slot r.context.span).record.isSome = true) : (s.judgeCurrent r).state.JudgedLaws := by
  unfold State.judgeCurrent
  split
  next => exact h
  next =>
    have asked := h.requestTail r.context.span (.escalate (nextClass r.context.cls))
    have slot : ((s.requestTail r.context.span (.escalate (nextClass r.context.cls))).slot
        r.context.span).record.isSome = true := by
      simpa [State.slot] using hslot
    unfold State.judgeEscalated
    dsimp only
    split
    next => exact asked
    next => exact asked
    next => exact asked.judgeAnalysed r _ slot
    next => exact asked.judgeAnalysed r _ slot
  next => exact h.judgeAnalysed r r.found hslot

theorem State.JudgedLaws.judgeResult {s : State} (h : s.JudgedLaws) (r : AnalysisResult) :
    (s.judgeResult r).state.JudgedLaws := by
  have lasted : (s.setCondition r.context.span ((s.condition r.context.span).withLast r)).JudgedLaws :=
    h.setCondition r.context.span (h.2.1 r.context.span) (h.2.2 r.context.span)
  unfold State.judgeResult
  dsimp only
  split
  next hcurrent =>
    refine lasted.judgeCurrent r ?_
    simp only [BaselineSlot.current, Bool.and_eq_true] at hcurrent
    simpa [State.slot] using hcurrent.1
  next => exact lasted

theorem State.JudgedLaws.analysisCompletes {s : State} (h : s.JudgedLaws) : s.analysisCompletes.JudgedLaws := by
  unfold State.analysisCompletes
  split
  next r _ =>
    split
    next =>
      have settled : (s.settleBank r.bank r.context).JudgedLaws := h.congr (by simp [SameJudged])
      have judged := settled.judgeResult (r.result (s.traceOf r))
      exact judged.congr (by simp [SameJudged, State.completeAnalysis, State.takeResult])
    next => exact h
  next => exact h

/-! ### Sweeps -/

theorem SourceTaken.judgedLaws {s t : State} (e : SourceTaken s t) (h : s.JudgedLaws) : t.JudgedLaws := by
  cases e with
  | queue e rest hq => exact h.setRecheck (h.recheck.sublist (by rw [hq]; exact List.sublist_cons_self _ _))
  | _ => exact h.congr (by simp [SameJudged])

theorem State.JudgedLaws.sweepStart {s : State} (h : s.JudgedLaws) : s.sweepStart.JudgedLaws := by
  rcases s.sweepStart_cases with hs | hs | ⟨t, x, n, _, _, taken, hs⟩ <;> rw [hs]
  · exact h
  · exact h.choose
  · exact (taken.judgedLaws h).congr (by simp [SameJudged])

theorem State.JudgedLaws.closingActions {s : State} (h : s.JudgedLaws) : s.closingActions.JudgedLaws := by
  unfold State.closingActions
  split
  next n o c _ _ _ _ =>
    split
    next =>
      have returned : (s.giveBack c o).JudgedLaws := by
        unfold State.giveBack
        split
        next => split <;> [exact h; exact h.requestTail _ _]
        next => exact h
      exact returned.congr (by simp [SameJudged, State.closeSweep])
    next => exact h
  next => exact h

theorem SweepEvent.judgedLaws {s t : State} (e : SweepEvent s t) (h : s.JudgedLaws) : t.JudgedLaws := by
  cases e with
  | sweepStart => exact h.sweepStart
  | closingActions => exact h.closingActions
  | analysisCompletes => exact h.analysisCompletes
  | _ => exact h.congr (by simp [SameJudged])

/-! ### Commands and resets -/

/-- A span set back after its plan entry or its baseline has changed (R105, R145). -/
theorem State.JudgedLaws.setBack {s u : State} (h : s.JudgedLaws) (sp : Span) (hc : u.conditions = s.conditions)
    (hu : ∀ i, i ≠ sp → u.entry i = s.entry i ∧ u.slot i = s.slot i) : (u.setBack sp).JudgedLaws := by
  obtain ⟨recheck, conditions, faulted⟩ := h
  have entries : ∀ i, (u.setBack sp).condition i = (u.setCondition sp (u.condition sp).setBack).condition i := fun i => by
    simp [State.condition, State.setBack]
  have slots : ∀ i, (u.setBack sp).slot i = u.slot i := fun i => by simp [State.slot]
  have others : ∀ i, i ≠ sp → (u.setBack sp).condition i = s.condition i := fun i hi => by
    rw [entries, State.condition_setCondition_ne _ hi]
    simp [State.condition, hc]
  have own : (u.setBack sp).condition sp = (u.condition sp).setBack := by
    rw [entries, State.condition_setCondition]
  refine ⟨recheck.without sp ?_ fun i hi => ?_, fun i => ?_, fun i hi => ?_⟩
  · rw [State.setBack_conditions, hc]
  · obtain ⟨entry, slot⟩ := hu i hi
    have : (u.setBack sp).entry i = u.entry i := by simp [State.entry]
    simp only [State.admissible, this, entry, slots, slot]
  · by_cases hsp : i = sp
    · rw [hsp, own]
      exact ConditionEntry.setBack_law _
    · rw [others i hsp]
      exact conditions i
  · by_cases hsp : i = sp
    · simp [hsp, own, ConditionEntry.setBack] at hi
    · rw [others i hsp] at hi
      rw [slots, (hu i hsp).2]
      exact faulted i hi

theorem State.JudgedLaws.setSlot_setBack {s : State} (h : s.JudgedLaws) (sp : Span) (x : BaselineSlot) (n : Nat) :
    ((s.setSlot sp x n).setBack sp).JudgedLaws :=
  h.setBack sp (by simp) fun i hi => ⟨by simp [State.entry], s.slot_setSlot_ne hi x n⟩

/-- A plan entry written does not change what the queue takes of other spans. -/
theorem State.admissible_setEntry_ne (s : State) {sp i : Span} (hi : i ≠ sp) (x : PlanEntry) :
    (s.setEntry sp x).admissible i = s.admissible i := by
  simp only [State.admissible, s.entry_setEntry_ne hi, State.slot, State.setEntry_frame]

/-- An entry written as enabled (R3). -/
theorem State.JudgedLaws.setEntry_enabled {s : State} (h : s.JudgedLaws) (sp : Span) {x : PlanEntry}
    (hx : x.enabled = true) : (s.setEntry sp x).JudgedLaws := by
  obtain ⟨⟨length, nodup, admissible⟩, conditions, faulted⟩ := h
  refine ⟨⟨length, nodup, fun e he => ?_⟩, conditions, faulted⟩
  have before := admissible e he
  by_cases hsp : e.span = sp
  · rw [hsp] at before ⊢
    simp only [State.admissible, State.slot, Bool.and_eq_true] at before
    simp [State.admissible, State.slot, hx, before.2]
  · rw [s.admissible_setEntry_ne hsp]
    exact before

/-- An entry written as disabled, with its span out of the queue (R3, R149). -/
theorem State.JudgedLaws.setEntry_removeRecheck {s : State} (h : s.JudgedLaws) (sp : Span) (x : PlanEntry) :
    ((s.setEntry sp x).removeRecheck sp).JudgedLaws := by
  obtain ⟨recheck, conditions, faulted⟩ := h
  have conditions' : (s.setEntry sp x).ConditionLaw := conditions
  have faulted' : (s.setEntry sp x).FaultedLaw := faulted
  refine ⟨recheck.without sp ?_ fun i hi => ?_, fun i => ?_, fun i hi => ?_⟩
  · rw [State.removeRecheck_recheck]
    rfl
  · rw [← s.admissible_setEntry_ne hi x]
    exact State.admissible_congr (by simp) (by simp) i
  · simpa [State.condition] using conditions' i
  · simpa [State.slot] using faulted' i (by simpa [State.condition] using hi)

theorem State.JudgedLaws.planWrite {s : State} (h : s.JudgedLaws) (span enabled port group : Byte) :
    (s.planWrite span enabled port group).state.JudgedLaws := by
  have written : ∀ (sp : Span) (x : PlanEntry) (was : Bool), ((s.setEntry sp x).planWritten sp was).JudgedLaws :=
    fun sp x was => by
      unfold State.planWritten
      rw [State.entry_setEntry]
      split
      next hx =>
        have enabled := h.setEntry_enabled sp hx
        split
        next => exact (enabled.congr (t := State.startCycle _) (by simp [SameJudged])).choose
        next => exact enabled.choose
      next => exact (h.setEntry_removeRecheck sp x).choose
  unfold State.planWrite
  split
  next => split <;> [exact h; exact written _ _ _]
  next => exact h

theorem State.JudgedLaws.baselineLoad {s : State} (h : s.JudgedLaws) (span cls binLength : Byte)
    (launch endBin : Half) (zones : List ZoneWords) :
    (s.baselineLoad span cls binLength launch endBin zones).state.JudgedLaws := by
  unfold State.baselineLoad
  split
  next sp _ _ _ => split <;> [exact h; split <;> [exact h; exact h.setSlot_setBack sp _ _]]
  next => exact h

theorem State.JudgedLaws.baselineDrop {s : State} (h : s.JudgedLaws) (span : Byte) :
    (s.baselineDrop span).state.JudgedLaws := by
  unfold State.baselineDrop
  split
  next => exact h
  next sp _ => split <;> [exact h; exact h.setSlot_setBack sp _ _]

theorem State.JudgedLaws.conditionClear {s : State} (h : s.JudgedLaws) (span : Byte) :
    (s.conditionClear span).state.JudgedLaws := by
  unfold State.conditionClear
  split
  next sp _ => exact h.setBack sp rfl fun _ _ => ⟨rfl, rfl⟩
  next => exact h

theorem State.JudgedLaws.replay {s : State} (h : s.JudgedLaws) (n m : Nat) : (s.replay n m).JudgedLaws := by
  induction n generalizing s m with
  | zero => exact h
  | succ n ih =>
    have matched : ((s.setTime (.ofSeconds (m * 60))).evaluateMatches .stepped).JudgedLaws :=
      h.congr (by simp [SameJudged])
    refine ih ?_ (m + 1)
    unfold State.replayBoundary State.closeDecided
    split <;> [exact matched; exact matched.closingActions]

theorem State.JudgedLaws.setTime {s : State} (h : s.JudgedLaws) (x : TimeOfWeek) : (s.setTime x).JudgedLaws := h

theorem State.JudgedLaws.stepForward {s : State} (h : s.JudgedLaws) (k : Nat) : (s.stepForward k).JudgedLaws := by
  unfold State.stepForward
  exact (h.replay _ _).setTime _

theorem State.JudgedLaws.clockStep {s : State} (h : s.JudgedLaws) (seconds : Half) :
    (s.clockStep seconds).state.JudgedLaws := by
  unfold State.clockStep
  split
  next => exact h
  next =>
    split
    next => exact h
    next => split <;> [exact h.stepForward _; exact h.congr (by simp [SameJudged, State.ok])]

theorem State.JudgedLaws.testNow {s : State} (h : s.JudgedLaws) (span retain : Byte) :
    (s.testNow span retain).state.JudgedLaws := by
  have served : ∀ {u : State} (sp : Span) (r : Bool), u.JudgedLaws → (u.serveTest sp r).JudgedLaws :=
    fun {u} sp r hu => by
      have filled : (u.fillSlot sp).JudgedLaws := hu.congr (by simp [SameJudged])
      unfold State.serveTest
      split
      next => exact filled
      next => exact filled
      next => exact filled
      next c _ _ _ _ =>
        split
        next => exact hu.congr (by simp [SameJudged])
        next =>
          split
          next => exact (filled.requestHead c.span c.cls).congr (by simp [SameJudged, State.preempt])
          next => exact filled
      next => exact filled
  unfold State.testNow
  split
  next sp r _ _ =>
    split
    next => exact h
    next => split <;> [exact h; split <;> [exact h; exact served sp r (h.congr (by simp [SameJudged]))]]
  next => exact h

theorem State.JudgedLaws.perform {s : State} (h : s.JudgedLaws) (tag : Byte) (c : LinkCommand) :
    (s.perform tag c).state.JudgedLaws := by
  cases c with
  | planWrite span enabled port group => exact h.planWrite span enabled port group
  | clockStep seconds => exact h.clockStep seconds
  | testNow span retain => exact h.testNow span retain
  | baselineLoad span cls binLength launch endBin zones =>
    exact h.baselineLoad span cls binLength launch endBin zones
  | baselineDrop span => exact h.baselineDrop span
  | conditionClear span => exact h.conditionClear span
  | groupStage group pairs =>
    change (s.groupStage group pairs).state.JudgedLaws
    unfold State.groupStage
    (repeat' split) <;> exact h
  | groupCommit groups =>
    refine h.congr ⟨by simp [State.perform], ?_, by simp [State.perform]⟩
    change (s.groupCommit groups).state.plan.entries = _
    unfold State.groupCommit
    (repeat' split) <;> simp [State.ok, State.refuse, State.commitGroups_entries]
  | planSeek index => exact h.congr ((s.perform_tables tag rfl).sameJudged (by simp [State.perform]))
  | windowMode mode => exact h.congr ((s.perform_tables tag rfl).sameJudged (by simp [State.perform]))
  | _ => exact h.congr (by simp [SameJudged, State.perform])

theorem ResetEvent.judgedLaws {s t : State} (e : ResetEvent s t) (h : s.JudgedLaws) : t.JudgedLaws := by
  cases e with
  | hardReset cause =>
    exact State.reset_judgedLaws.congr (by simp [SameJudged, State.hardReset, State.resetNotices, State.reset])
  | resetEffect k =>
    cases k with
    | fullReset =>
      exact State.reset_judgedLaws.congr
        (by simp [SameJudged, State.resetEffect, State.fullReset, State.resetNotices, State.reset])
    | restart =>
      have blocks : s.restartBlocks.JudgedLaws := by
        obtain ⟨_, conditions, faulted⟩ := h
        exact ⟨⟨Nat.zero_le _, List.nodup_nil, fun _ he => by cases he⟩, conditions, faulted⟩
      unfold State.resetEffect State.restart
      dsimp only
      (repeat' split) <;> exact blocks.congr (by simp [SameJudged])

theorem judgedLaws_keptByParts : KeptByParts State.JudgedLaws where
  pending _ h := h
  link _ _ h := h
  command tag c h := h.perform tag c
  report {s} h := h.congr (s.reportTaken_tables.sameJudged (by simp [State.reportTaken]))
  shot e h := h.congr (e.tables.sameJudged (by cases e <;> simp))
  clock e h := h.congr (e.tables.sameJudged (by cases e <;> simp))
  sweep e h := e.judgedLaws h
  bank e h := h.congr (e.tables.sameJudged (by cases e <;> simp))
  reset e h := e.judgedLaws h

/-- Settles O57: a request joins the queue by the rules of R147 and R148, a judgement keeps the law of its entry, and a
baseline that goes sets its span back. -/
theorem everyStepKeepsTheConditionLaws : Obligations.EveryStepKeepsTheConditionLaws := by
  intro s t h ht
  exact judgedLaws_keptByParts.step_keeps h ht

end Sys2Proof.Machine

/-! The bank that the engine holds: the operations that leave it. A sweep is given its bank at its start, and the engine
holds it until the sweep completes or is closed (R39, R51, R55). -/

namespace Sys2Proof.Machine

theorem EngineFollows.bank {s u : State} (h : EngineFollows s u) : u.engine.bank = s.engine.bank := by
  rw [h.2.1]

@[simp] theorem State.setEngineState_bank (s : State) (x : EngineState) :
    (s.setEngineState x).engine.bank = s.engine.bank := rfl

/-! ### Shots and the selector -/

@[simp] theorem State.fireTest_bank (s : State) (c : SweepContext) : (s.fireTest c).engine.bank = s.engine.bank := by
  unfold State.fireTest
  (repeat' split) <;> simp

@[simp] theorem State.retest_bank (s : State) : s.retest.engine.bank = s.engine.bank := by
  unfold State.retest
  (repeat' split) <;> simp

@[simp] theorem State.decideOutcome_bank (s : State) (o : EngineOutcome) :
    (s.decideOutcome o).engine.bank = s.engine.bank := rfl

@[simp] theorem State.takeJudgement_bank (s : State) (c : SweepContext) (dark : Bool) (j : Judgement) :
    (s.takeJudgement c dark j).engine.bank = s.engine.bank := by
  unfold State.takeJudgement State.endByJudgement
  (repeat' split) <;> simp

@[simp] theorem State.deliver_bank (s : State) (dark : Bool) (j : Judgement) :
    (s.deliver dark j).engine.bank = s.engine.bank := by
  unfold State.deliver
  (repeat' split) <;> simp

@[simp] theorem State.enterDarkCheck_bank (s : State) : s.enterDarkCheck.engine.bank = s.engine.bank := by
  simp [State.enterDarkCheck]

@[simp] theorem State.select_bank (s : State) (c : SweepContext) : (s.select c).engine.bank = s.engine.bank := by
  unfold State.select State.enterSettling State.sendSelect
  (repeat' split) <;> simp

@[simp] theorem State.selectorSettles_bank (s : State) (p : SelPort) (sel : Selector) :
    (s.selectorSettles p sel).engine.bank = s.engine.bank := by
  unfold State.selectorSettles State.selectorLeft
  (repeat' split) <;> simp

@[simp] theorem State.selectorFails_bank (s : State) (p : SelPort) :
    (s.selectorFails p).engine.bank = s.engine.bank := by
  simp [State.selectorFails]

theorem ShotEvent.bank {s t : State} (e : ShotEvent s t) : t.engine.bank = s.engine.bank := by
  cases e with
  | selectorSet port => unfold State.selectorSet; (repeat' split) <;> simp
  | selectorFault => unfold State.selectorFault; split <;> simp
  | selectorExpires => unfold State.selectorExpires; split <;> simp
  | settleExpires => unfold State.settleExpires; split <;> simp
  | hotHoldExpires => unfold State.hotHoldExpires; split <;> simp
  | headerArrives tag bins =>
    unfold State.headerArrives State.tear
    (repeat' split) <;> simp
  | sampleArrives level => simp
  | trailerArrives saturated => unfold State.trailerArrives; (repeat' split) <;> simp
  | statusArrives temperature =>
    unfold State.statusArrives State.resumeFiring
    (repeat' split) <;> simp
  | shotExpires tag => unfold State.shotExpires; split <;> simp
  | sumSample => unfold State.sumSample; (repeat' split) <;> simp
  | completeAccumulation => unfold State.completeAccumulation; (repeat' split) <;> simp

/-! ### Queues, plan and window -/

@[simp] theorem State.takeRecords_bank (s : State) (n : Nat) : (s.takeRecords n).engine.bank = s.engine.bank := by
  unfold State.takeRecords
  split <;> simp

@[simp] theorem State.applyMarks_bank (s : State) : s.applyMarks.engine.bank = s.engine.bank := by
  unfold State.applyMarks
  (repeat' split) <;> simp

@[simp] theorem State.requestTail_bank (s : State) (sp : Span) (reason : RecheckReason) :
    (s.requestTail sp reason).engine.bank = s.engine.bank :=
  (s.requestTail_follows sp reason).bank

@[simp] theorem State.requestHead_bank (s : State) (sp : Span) (cls : PulseClass) :
    (s.requestHead sp cls).engine.bank = s.engine.bank := by
  unfold State.requestHead
  split <;> simp

@[simp] theorem State.removeRecheck_bank (s : State) (sp : Span) :
    (s.removeRecheck sp).engine.bank = s.engine.bank := by
  unfold State.removeRecheck
  split <;> simp

@[simp] theorem State.setBack_bank (s : State) (sp : Span) : (s.setBack sp).engine.bank = s.engine.bank := by
  simp [State.setBack]

@[simp] theorem State.startCycle_bank (s : State) : s.startCycle.engine.bank = s.engine.bank := by
  unfold State.startCycle
  dsimp only
  split <;> simp

@[simp] theorem State.wrapCycle_bank (s : State) (c : CycleRecord) : (s.wrapCycle c).engine.bank = s.engine.bank := by
  unfold State.wrapCycle
  dsimp only
  split <;> simp

@[simp] theorem State.freeBank_bank (s : State) (n : BankName) : (s.freeBank n).engine.bank = s.engine.bank :=
  (s.freeBank_follows n).bank

@[simp] theorem State.putWork_bank (s : State) (l : List Record) : (s.putWork l).engine.bank = s.engine.bank :=
  (s.putWork_follows l).bank

@[simp] theorem State.openWindow_bank (s : State) (cause : EdgeCause) :
    (s.openWindow cause).engine.bank = s.engine.bank := by
  unfold State.openWindow
  split <;> simp

@[simp] theorem State.graceEnds_bank (s : State) : s.graceEnds.engine.bank = s.engine.bank := by
  unfold State.graceEnds State.cut
  (repeat' split) <;> simp

@[simp] theorem State.shutWindow_bank (s : State) : s.shutWindow.engine.bank = s.engine.bank := by
  unfold State.shutWindow State.enterClosing
  dsimp only
  (repeat' split) <;> simp

@[simp] theorem State.leaveOpen_bank (s : State) (cause : EdgeCause) :
    (s.leaveOpen cause).engine.bank = s.engine.bank := by
  unfold State.leaveOpen State.inFreeOrder
  dsimp only
  (repeat' split) <;> simp

@[simp] theorem State.planWritten_bank (s : State) (sp : Span) (was : Bool) :
    (s.planWritten sp was).engine.bank = s.engine.bank := by
  unfold State.planWritten
  (repeat' split) <;> simp

@[simp] theorem State.giveBack_bank (s : State) (c : SweepContext) (o : EngineOutcome) :
    (s.giveBack c o).engine.bank = s.engine.bank := by
  unfold State.giveBack
  (repeat' split) <;> simp

@[simp] theorem State.settleBank_bank (s : State) (n : BankName) (c : SweepContext) :
    (s.settleBank n c).engine.bank = s.engine.bank := by
  unfold State.settleBank State.holdBank
  split <;> simp

@[simp] theorem State.judgeResult_bank (s : State) (r : AnalysisRecord) (t : Trace) :
    (s.judgeResult (r.result t)).state.engine.bank = s.engine.bank := by
  obtain ⟨_, _, _, follows, _⟩ := s.judgeResult_rules r t
  exact follows.bank

theorem SourceTaken.bank {s t : State} (h : SourceTaken s t) : t.engine.bank = s.engine.bank := by
  cases h <;> simp

end Sys2Proof.Machine

/-! The slots of the report queue (R151, R153) under every step: a reservation belongs to the work of one bank, and ends
with it. -/

namespace Sys2Proof.Machine

/-! ### Records and reservations -/

/-- Occupancy and reservations fit into the queue (R151). -/
def Reports.Fits (r : Reports) : Prop :=
  r.occupancy + r.reserved ≤ Config.reportSlots

@[simp] theorem Reports.edged_reserved (r : Reports) (x : Record) : (r.edged x).reserved = r.reserved := by
  unfold Reports.edged
  split <;> rfl

theorem Reports.Fits.edged {r : Reports} (h : r.Fits) (x : Record) : (r.edged x).Fits := by
  unfold Reports.edged
  split
  next hfree =>
    simp only [Reports.Fits, Reports.occupancy, List.length_append, List.length_singleton, Config.reportSlots]
    omega
  next => exact h

@[simp] theorem Reports.edgedAll_reserved (r : Reports) (l : List Record) : (r.edgedAll l).reserved = r.reserved := by
  induction l generalizing r with
  | nil => rfl
  | cons x rest ih => exact (ih (r.edged x)).trans (r.edged_reserved x)

theorem Reports.Fits.edgedAll {r : Reports} (h : r.Fits) (l : List Record) : (r.edgedAll l).Fits := by
  induction l generalizing r with
  | nil => exact h
  | cons x rest ih => exact ih (h.edged x)

/-- The records of one work take no more than its reservation (R153). -/
theorem Reports.Fits.worked {r : Reports} (h : r.Fits) {l : List Record} (hl : l.length ≤ 9) (hr : 9 ≤ r.reserved) :
    (r.worked l).Fits := by
  simp only [Reports.Fits, Reports.occupancy, Reports.worked, List.length_append] at h ⊢
  omega

/-! ### Banks with a reservation -/

theorem otherBank_ne (n : BankName) : otherBank n ≠ n := by
  cases n <;> decide

theorem BankName.eq_or_other (n m : BankName) : m = n ∨ m = otherBank n := by
  cases n <;> cases m <;> simp [otherBank]

theorem State.slots_split (s : State) (n : BankName) :
    s.banks.a.slots + s.banks.b.slots = (s.bank n).slots + (s.bank (otherBank n)).slots := by
  cases n
  · rfl
  · exact Nat.add_comm _ _

theorem Bank.slots_congr {b b' : Bank} (hs : b'.state = b.state) (hr : b'.reanalysis = b.reanalysis) :
    b'.slots = b.slots := by
  cases b
  cases b'
  cases hs
  cases hr
  rfl

theorem Bank.slots_of_filling {b : Bank} (h : b.state = .filling) : b.slots = 9 := by
  simp [Bank.slots, Bank.holdsSlots, h, Config.reservation]

theorem Bank.slots_of_full {b : Bank} (h : b.state = .full) : b.slots = 9 := by
  simp [Bank.slots, Bank.holdsSlots, h, Config.reservation]

theorem Bank.slots_of_analysing {b : Bank} (h : b.state = .analysing) : b.slots = 9 := by
  simp [Bank.slots, Bank.holdsSlots, h, Config.reservation]

theorem Bank.slots_of_waiting {b : Bank} {p : ProfileNo} (h : b.state = .held) (hr : b.reanalysis = .waiting p) :
    b.slots = 9 := by
  simp [Bank.slots, Bank.holdsSlots, h, hr, Config.reservation]

theorem Bank.slots_of_free {b : Bank} (h : b.state = .free) : b.slots = 0 := by
  simp [Bank.slots, Bank.holdsSlots, h]

theorem Bank.slots_of_exporting {b : Bank} (h : b.state = .exporting) : b.slots = 0 := by
  simp [Bank.slots, Bank.holdsSlots, h]

theorem Bank.slots_of_idle {b : Bank} (h : b.state = .held) (hr : b.reanalysis = .idle) : b.slots = 0 := by
  simp [Bank.slots, Bank.holdsSlots, h, hr]

/-! ### The law under a change of one bank -/

/-- One bank `n` changes with the reservation of its work; the other bank stands. What the engine and the analyser hold,
they held before of the other bank, or hold now of `n`. -/
theorem State.SlotsLaw.change {s t : State} (h : s.SlotsLaw) (n : BankName)
    (hother : t.bank (otherBank n) = s.bank (otherBank n)) (hfits : t.reports.Fits)
    (hreserved : t.reports.reserved + (s.bank n).slots = s.reports.reserved + (t.bank n).slots)
    (hengine : ∀ m, t.engine.bank = some m → (s.engine.bank = some m ∧ m ≠ n) ∨ (m = n ∧ (t.bank n).state = .filling))
    (hrecord : ∀ r, t.analyser.record = some r →
      (s.analyser.record = some r ∧ r.bank ≠ n) ∨ (r.bank = n ∧ (t.bank n).state = .analysing)) : t.SlotsLaw := by
  obtain ⟨_, reserved, filling, analysing⟩ := h
  have same : ∀ m, m ≠ n → t.bank m = s.bank m := fun m hm => by
    rcases BankName.eq_or_other n m with rfl | rfl <;> [exact absurd rfl hm; exact hother]
  refine ⟨hfits, ?_, fun m hm => ?_, fun r hr => ?_⟩
  · rw [s.slots_split n] at reserved
    rw [t.slots_split n, hother]
    omega
  · rcases hengine m hm with ⟨held, hne⟩ | ⟨rfl, hstate⟩
    · rw [same m hne]
      exact filling m held
    · exact hstate
  · rcases hrecord r hr with ⟨held, hne⟩ | ⟨hn, hstate⟩
    · rw [same r.bank hne]
      exact analysing r held
    · rw [hn]
      exact hstate

/-- Banks, engine's bank, record and reservations stand, and no more records are held. -/
theorem State.SlotsLaw.congr {s t : State} (h : s.SlotsLaw)
    (hb : ∀ n, (t.bank n).state = (s.bank n).state ∧ (t.bank n).reanalysis = (s.bank n).reanalysis)
    (he : t.engine.bank = s.engine.bank) (ha : t.analyser.record = s.analyser.record)
    (hr : t.reports.reserved = s.reports.reserved) (hf : t.reports.Fits) : t.SlotsLaw := by
  obtain ⟨_, reserved, filling, analysing⟩ := h
  have slots : ∀ n, (t.bank n).slots = (s.bank n).slots := fun n => Bank.slots_congr (hb n).1 (hb n).2
  refine ⟨hf, ?_, fun m hm => ?_, fun r hrec => ?_⟩
  · have a := slots .a
    have b := slots .b
    simp only [State.bank] at a b
    rw [hr, reserved, a, b]
  · rw [(hb m).1]
    exact filling m (he ▸ hm)
  · rw [(hb r.bank).1]
    exact analysing r (ha ▸ hrec)

theorem State.SlotsLaw.fits {s : State} (h : s.SlotsLaw) : s.reports.Fits := h.1

/-- Banks and reports stand. -/
theorem State.SlotsLaw.same {s t : State} (h : s.SlotsLaw) (hb : t.banks = s.banks)
    (he : t.engine.bank = s.engine.bank) (ha : t.analyser.record = s.analyser.record) (hr : t.reports = s.reports) :
    t.SlotsLaw :=
  h.congr (fun n => by rw [State.bank_congr hb]; exact ⟨rfl, rfl⟩) he ha (by rw [hr]) (by rw [hr]; exact h.fits)

/-- Banks stand, and the reports have changed within the law. -/
theorem State.SlotsLaw.sameBanks {s t : State} (h : s.SlotsLaw) (hb : t.banks = s.banks)
    (he : t.engine.bank = s.engine.bank) (ha : t.analyser.record = s.analyser.record)
    (hr : t.reports.reserved = s.reports.reserved) (hf : t.reports.Fits) : t.SlotsLaw :=
  h.congr (fun n => by rw [State.bank_congr hb]; exact ⟨rfl, rfl⟩) he ha hr hf

/-- A bank that the engine does not hold. -/
theorem State.SlotsLaw.engine_ne {s : State} (h : s.SlotsLaw) {n m : BankName} (hm : s.engine.bank = some m)
    (hn : (s.bank n).state ≠ .filling) : m ≠ n := by
  rintro rfl
  exact hn (h.2.2.1 m hm)

/-- A bank that the analyser does not work on. -/
theorem State.SlotsLaw.record_ne {s : State} (h : s.SlotsLaw) {n : BankName} {r : AnalysisRecord}
    (hr : s.analyser.record = some r) (hn : (s.bank n).state ≠ .analysing) : r.bank ≠ n := by
  rintro rfl
  exact hn (h.2.2.2 r hr)

/-- One bank written without a change of its state and its mark. -/
theorem State.SlotsLaw.setBank {s : State} (h : s.SlotsLaw) (n : BankName) {x : Bank}
    (hs : x.state = (s.bank n).state) (hr : x.reanalysis = (s.bank n).reanalysis) : (s.setBank n x).SlotsLaw := by
  refine h.congr (fun m => ?_) (by simp) (by simp) (by simp) (by simpa using h.fits)
  by_cases hm : m = n
  · rw [hm, State.bank_setBank]
    exact ⟨hs, hr⟩
  · rw [State.bank_setBank_ne _ hm]
    exact ⟨rfl, rfl⟩

/-- One bank written that holds no reservation before or after. -/
theorem State.SlotsLaw.setBank_idle {s : State} (h : s.SlotsLaw) (n : BankName) {x : Bank}
    (hs : (s.bank n).slots = 0) (hx : x.slots = 0) : (s.setBank n x).SlotsLaw := by
  have filling : (s.bank n).state ≠ .filling := fun hf => by simp [Bank.slots_of_filling hf] at hs
  have analysing : (s.bank n).state ≠ .analysing := fun hf => by simp [Bank.slots_of_analysing hf] at hs
  refine h.change n (State.bank_setBank_ne _ (otherBank_ne n) x) (by simpa using h.fits) ?_ (fun m hm => ?_) fun r hr => ?_
  · simp [hs, hx]
  · have hm' : s.engine.bank = some m := by simpa using hm
    exact .inl ⟨hm', h.engine_ne hm' filling⟩
  · have hr' : s.analyser.record = some r := by simpa using hr
    exact .inl ⟨hr', h.record_ne hr' analysing⟩

/-! ### Choices, notices, records -/

theorem State.SlotsLaw.choose {s : State} (h : s.SlotsLaw) : s.choose.SlotsLaw :=
  h.same (by simp) (by simp) (by simp) (by simp)

theorem State.SlotsLaw.raise {s : State} (h : s.SlotsLaw) (k : NoticeKind) : (s.raise k).SlotsLaw := h

theorem State.SlotsLaw.putEdge {s : State} (h : s.SlotsLaw) (r : Record) : (s.putEdge r).SlotsLaw := by
  refine h.sameBanks (by simp) (by simp) (by simp) (by simp) ?_
  rw [(s.putEdge_edged r).1]
  exact h.fits.edged r

theorem State.SlotsLaw.takeRecords {s : State} (h : s.SlotsLaw) (n : Nat) : (s.takeRecords n).SlotsLaw := by
  have fits := h.fits
  refine h.sameBanks (by simp) (by simp) (by simp) ?_ ?_
  · unfold State.takeRecords
    split <;> simp
  · unfold State.takeRecords
    split
    next => exact fits
    next =>
      simp only [Reports.Fits, Reports.occupancy, State.choose_frame, State.checkResume_records,
        State.withReports_reports, List.length_drop] at fits ⊢
      omega

theorem State.SlotsLaw.putCycleEnd {s : State} (h : s.SlotsLaw) (e : EndingCycle) : (s.putCycleEnd e).SlotsLaw :=
  (h.putEdge _).raise .cycleDone

theorem State.SlotsLaw.putWindowEdge {s : State} (h : s.SlotsLaw) (edge : Edge) (cause : EdgeCause) :
    (s.putWindowEdge edge cause).SlotsLaw :=
  (h.putEdge _).raise .windowEdge

theorem State.SlotsLaw.withPlan {s : State} (h : s.SlotsLaw) (x : Plan) : (s.withPlan x).SlotsLaw := h

theorem State.SlotsLaw.withWindow {s : State} (h : s.SlotsLaw) (x : Window) : (s.withWindow x).SlotsLaw := h

theorem State.SlotsLaw.setTime {s : State} (h : s.SlotsLaw) (x : TimeOfWeek) : (s.setTime x).SlotsLaw := h

theorem State.SlotsLaw.nextFree {s : State} (h : s.SlotsLaw) : s.nextFree.SlotsLaw := h

/-! ### Cycles and the window -/

theorem State.SlotsLaw.startCycle {s : State} (h : s.SlotsLaw) : s.startCycle.SlotsLaw := by
  unfold State.startCycle
  dsimp only
  split <;> [exact (h.withPlan _).choose; exact h]

theorem State.SlotsLaw.closeCycle {s : State} (h : s.SlotsLaw) : s.closeCycle.SlotsLaw := by
  unfold State.closeCycle State.endCycle
  split
  next => exact h
  next =>
    split
    next => exact h
    next => dsimp only; split <;> [exact (h.withPlan _).putCycleEnd _; exact h]

theorem State.SlotsLaw.enterClosed {s : State} (h : s.SlotsLaw) : s.enterClosed.SlotsLaw :=
  (h.withWindow _).putWindowEdge .closed _

theorem State.SlotsLaw.sweepEnded {s : State} (h : s.SlotsLaw) : s.sweepEnded.SlotsLaw := by
  unfold State.sweepEnded
  split <;> [exact h.enterClosed; exact h]

theorem State.SlotsLaw.openWindow {s : State} (h : s.SlotsLaw) (cause : EdgeCause) : (s.openWindow cause).SlotsLaw := by
  unfold State.openWindow
  split
  next => exact h
  next => exact ((h.withWindow _).putWindowEdge .opened cause).startCycle.choose
  next => exact (h.withWindow _).startCycle.choose

theorem State.SlotsLaw.graceEnds {s : State} (h : s.SlotsLaw) : s.graceEnds.SlotsLaw := by
  unfold State.graceEnds
  split
  next => exact h.same (by simp) (by unfold State.cut; (repeat' split) <;> simp) (by simp) (by simp)
  next => exact h.enterClosed

theorem State.SlotsLaw.shutWindow {s : State} (h : s.SlotsLaw) : s.shutWindow.SlotsLaw := by
  unfold State.shutWindow State.enterClosing
  dsimp only
  split
  next => split <;> [exact (h.withWindow _).graceEnds; exact h]
  next => exact h.enterClosed

theorem State.SlotsLaw.leaveOpen {s : State} (h : s.SlotsLaw) (cause : EdgeCause) : (s.leaveOpen cause).SlotsLaw := by
  unfold State.leaveOpen State.inFreeOrder
  dsimp only
  split
  next =>
    split
    next => exact (h.withWindow _).closeCycle.shutWindow.nextFree.choose
    next => exact (h.withWindow _).shutWindow.closeCycle.nextFree.choose
  next => exact h

theorem State.SlotsLaw.evaluateMatches {s : State} (h : s.SlotsLaw) (cause : EdgeCause) :
    (s.evaluateMatches cause).SlotsLaw := by
  unfold State.evaluateMatches
  split
  next => split <;> [exact h.openWindow cause; split <;> [exact h.leaveOpen cause; exact h]]
  next => exact h

theorem State.SlotsLaw.secondPasses {s : State} (h : s.SlotsLaw) : s.secondPasses.SlotsLaw := by
  unfold State.secondPasses
  dsimp only
  split <;> [exact (h.withWindow _).evaluateMatches .matched; exact h]

theorem ClockEvent.slotsLaw {s t : State} (e : ClockEvent s t) (h : s.SlotsLaw) : t.SlotsLaw := by
  cases e with
  | refclkEdge =>
    unfold State.refclkEdge
    split
    next => split <;> [exact h; exact h.secondPasses]
    next => exact h
  | secondEvent =>
    unfold State.secondEvent
    split <;> [exact h.secondPasses; exact h]
  | referenceLost =>
    unfold State.referenceLost
    dsimp only
    split
    next => exact h
    next => split <;> [exact ((h.withWindow _).raise .clockLost).leaveOpen _; exact h]
  | referencePresent => exact h
  | graceExpires =>
    unfold State.graceExpires
    split <;> [exact h.graceEnds; exact h]

/-! ### Shots -/

/-- The tallies, the sums and the accepted-shot counts are no part of a bank's work. -/
theorem State.SlotsLaw.setContext {s : State} (h : s.SlotsLaw) (c : SweepContext) : (s.setContext c).SlotsLaw := by
  unfold State.setContext
  split <;> [exact h.setBank _ rfl rfl; exact h]

theorem State.SlotsLaw.deliver {s : State} (h : s.SlotsLaw) (dark : Bool) (j : Judgement) :
    (s.deliver dark j).SlotsLaw := by
  have taken : ∀ c d, (s.takeJudgement c d j).SlotsLaw := fun c d => by
    have tallied := h.setContext (c.tally d j)
    unfold State.takeJudgement State.endByJudgement
    (repeat' split) <;> exact tallied.same (by simp) (by simp) (by simp) (by simp)
  unfold State.deliver
  split
  next => exact h
  next => split <;> [exact taken _ _; exact taken _ _; exact taken _ _; exact h]

theorem State.SlotsLaw.withPort {s : State} (h : s.SlotsLaw) (x : Port) : (s.withPort x).SlotsLaw := h

theorem ShotEvent.slotsLaw {s t : State} (e : ShotEvent s t) (h : s.SlotsLaw) : t.SlotsLaw := by
  have bank := e.bank
  cases e with
  | headerArrives tag bins =>
    unfold State.headerArrives State.tear
    split
    next => split <;> [exact ((h.withPort _).deliver _ _).withPort _; exact h]
    next => exact h
  | trailerArrives saturated =>
    unfold State.trailerArrives
    split
    next => split <;> [exact (h.withPort _).deliver _ _; exact h]
    next => exact h
    next => exact h
  | shotExpires tag =>
    unfold State.shotExpires
    split <;> [exact (h.withPort _).deliver _ _; exact h]
  | sumSample =>
    unfold State.sumSample
    split
    next head _ level _ _ _ =>
      split
      next =>
        have added : (s.addToBank head.bank head.summed level).SlotsLaw := h.setBank head.bank rfl rfl
        exact added.same (by simp) (by simp) (by simp) (by simp)
      next => exact h
    next => exact h
  | completeAccumulation =>
    unfold State.completeAccumulation
    split
    next head _ _ =>
      split
      next =>
        have counted := h.setBank head.bank (x := { s.bank head.bank with
          accepted := (s.bank head.bank).accepted + (if head.counted then 1 else 0) }) rfl rfl
        exact counted.same (by simp) (by simp) (by simp) (by simp)
      next => exact h
    next => exact h
  | _ => exact h.same (by simp) bank (by simp) (by simp)

/-! ### The start and the ends of a sweep -/

theorem Reports.edged_length_le (r : Reports) (x : Record) : (r.edged x).records.length ≤ r.records.length + 1 := by
  unfold Reports.edged
  split <;> simp

theorem State.endCycle_reports (s : State) (reason : CycleReason) (n : Nat) :
    (s.endCycle reason n).reports.reserved = s.reports.reserved ∧
      (s.endCycle reason n).reports.records.length ≤ s.reports.records.length + 1 := by
  unfold State.endCycle
  split
  next => exact ⟨rfl, Nat.le_succ _⟩
  next =>
    dsimp only
    split
    next =>
      unfold State.putCycleEnd
      rw [State.raise_frame _ _ |>.2.2.2.2.2.2.2.2.1, (State.putEdge_edged _ _).1]
      exact ⟨Reports.edged_reserved _ _, Reports.edged_length_le _ _⟩
    next => exact ⟨rfl, Nat.le_succ _⟩

/-- Taking a source puts one record at most, the CYCLE_END of a cycle that wraps (R7, R13). -/
theorem SourceTaken.reports {s t : State} (e : SourceTaken s t) :
    t.reports.reserved = s.reports.reserved ∧ t.reports.records.length ≤ s.reports.records.length + 1 := by
  cases e with
  | wrap c sp =>
    have wrapped : ((s.wrapCycle c).takeAt sp).reports = (s.endCycle .wrap 0).reports := by
      unfold State.wrapCycle
      dsimp only
      split <;> simp
    rw [wrapped]
    exact s.endCycle_reports .wrap 0
  | _ => simp

theorem SourceTaken.analyser {s t : State} (e : SourceTaken s t) : t.analyser = s.analyser := by
  cases e <;> simp

/-- A sweep begun in a free bank, with room for its reservation (R39, R153). -/
theorem State.SlotsLaw.beginSweep {s : State} (h : s.SlotsLaw) (x : Source) {n : BankName}
    (hfree : (s.bank n).state = .free) (hroom : s.reports.occupancy + s.reports.reserved + 9 ≤ 128) :
    (s.beginSweep x n).SlotsLaw := by
  have banks : (s.beginSweep x n).banks =
      ((s.withPort (s.port.endSumming n)).claimBank n (s.buildContext x n)).banks := by
    simp [State.beginSweep]
  have claimed : ((s.beginSweep x n).bank n).state = .filling := by
    rw [State.bank_congr banks, State.claimBank, State.bank_setBank]
  have reports : (s.beginSweep x n).reports = { s.reports with reserved := s.reports.reserved + 9 } := by
    simp [State.beginSweep, State.reserve, Config.reservation]
  refine h.change n ?_ ?_ ?_ (fun m hm => .inr ⟨?_, claimed⟩) fun r hr => .inl ?_
  · rw [State.bank_congr banks, State.claimBank, State.bank_setBank_ne _ (otherBank_ne n)]
    rfl
  · rw [reports]
    exact (Nat.add_assoc _ _ _).symm.trans_le hroom
  · rw [reports, Bank.slots_of_free hfree, Bank.slots_of_filling claimed]
  · have : some n = some m := by simpa [State.beginSweep] using hm
    exact (Option.some.inj this).symm
  · have hr' : s.analyser.record = some r := by simpa using hr
    exact ⟨hr', h.record_ne hr' (by simp [hfree])⟩

/-- A grant leaves room for 11 records (R153). -/
theorem Reports.room_of_grants {r : Reports} (h : r.grants = true) : r.records.length + r.reserved + 11 ≤ 128 :=
  of_decide_eq_true (Bool.and_eq_true_iff.mp h).1

theorem State.SlotsLaw.sweepStart {s : State} (h : s.SlotsLaw) : s.sweepStart.SlotsLaw := by
  rcases s.sweepStart_cases with hs | hs | ⟨t, x, n, grants, free, taken, hs⟩ <;> rw [hs]
  · exact h
  · exact h.choose
  · obtain ⟨reserved, length⟩ := taken.reports
    have room : s.reports.records.length + s.reports.reserved + 11 ≤ 128 := Reports.room_of_grants grants
    have law : t.SlotsLaw := by
      refine h.sameBanks taken.banks taken.bank (by rw [taken.analyser]) reserved ?_
      simp only [Reports.Fits, Reports.occupancy, Config.reportSlots]
      omega
    refine law.beginSweep x ?_ ?_
    · rw [State.bank_congr taken.banks]
      exact free
    · simp only [Reports.occupancy]
      omega

/-- The work of bank `n` has ended: its records are written, its reservation is over (R153). -/
theorem State.SlotsLaw.endWork {s t : State} (h : s.SlotsLaw) {n : BankName} (hwork : (s.bank n).slots = 9)
    (hother : t.bank (otherBank n) = s.bank (otherBank n)) (hbank : (t.bank n).slots = 0) {l ends : List Record}
    (hl : l.length ≤ 9) (hreports : t.reports = (s.reports.worked l).edgedAll ends)
    (hengine : ∀ m, t.engine.bank = some m → s.engine.bank = some m ∧ m ≠ n)
    (hrecord : ∀ r, t.analyser.record = some r → s.analyser.record = some r ∧ r.bank ≠ n) : t.SlotsLaw := by
  have reserved : 9 ≤ s.reports.reserved := by
    have := h.2.1
    rw [s.slots_split n] at this
    omega
  refine h.change n hother ?_ ?_ (fun m hm => .inl (hengine m hm)) fun r hr => .inl (hrecord r hr)
  · rw [hreports]
    exact (h.fits.worked hl reserved).edgedAll ends
  · rw [hreports, Reports.edgedAll_reserved, hwork, hbank]
    exact Nat.sub_add_cancel reserved

theorem State.SlotsLaw.closingActions {s : State} (h : s.SlotsLaw) : s.closingActions.SlotsLaw := by
  unfold State.closingActions
  split
  next n o c _ hbank _ _ =>
    split
    next =>
      obtain ⟨ends, _, _, _, reports, _, _, _, _, _, _, _, freed, other, _, _, _, engine, _, rest⟩ :=
        s.closeSweep_closes n c o
      have filling := h.2.2.1 n hbank
      have closed : ∀ m, (s.closeSweep n c o).engine.bank = some m → s.engine.bank = some m ∧ m ≠ n := fun m hm => by
        simp [engine] at hm
      have record : ∀ r, (s.closeSweep n c o).analyser.record = some r →
          s.analyser.record = some r ∧ r.bank ≠ n := fun r hr => by
        have hr' : s.analyser.record = some r := by rwa [rest] at hr
        exact ⟨hr', h.record_ne hr' (by simp [filling])⟩
      have free : ((s.closeSweep n c o).bank n).slots = 0 := by
        rw [freed]
        exact Bank.slots_of_free rfl
      rcases reports with reports | reports
      · exact h.endWork (Bank.slots_of_filling filling) other free (by simp) reports closed record
      · exact h.endWork (Bank.slots_of_filling filling) other free (by simp) reports closed record
    next => exact h
  next => exact h

theorem State.SlotsLaw.sweepComplete {s : State} (h : s.SlotsLaw) : s.sweepComplete.SlotsLaw := by
  unfold State.sweepComplete
  split
  next n c hbank _ =>
    split
    next =>
      have filling := h.2.2.1 n hbank
      have full : ((s.fillBank n).dropSweep.bank n).state = .full := by cases n <;> rfl
      have law : (s.fillBank n).dropSweep.SlotsLaw := by
        refine h.change n (by cases n <;> rfl) (by simpa using h.fits) ?_ (fun m hm => by cases hm) fun r hr => .inl ?_
        · rw [Bank.slots_of_full full, Bank.slots_of_filling filling]
          simp
        · have hr' : s.analyser.record = some r := by simpa using hr
          exact ⟨hr', h.record_ne hr' (by simp [filling])⟩
      exact law.sweepEnded.choose
    next => exact h
  next => exact h

/-! ### The analyser -/

/-- A bank taken by the analyser keeps the reservation of its work (R116, R153). -/
theorem State.SlotsLaw.startAnalysis {s : State} (h : s.SlotsLaw) {n : BankName} {x : Bank} (rest : List BankName)
    {r : AnalysisRecord} (hs : (s.bank n).slots = 9) (hf : (s.bank n).state ≠ .filling) (hx : x.state = .analysing)
    (hr : r.bank = n) : ((s.setBank n x).startAnalysis rest r).SlotsLaw := by
  obtain ⟨bank, other, _, analyser, rest⟩ := s.startAnalysis_taken n rest x r
  refine h.change n other ?_ ?_ (fun m hm => .inl ?_) fun r' hr' => .inr ?_
  · simpa using h.fits
  · rw [hs, Bank.slots_of_analysing (by rw [bank]; exact hx)]
    simp
  · have hm' : s.engine.bank = some m := by simpa using hm
    exact ⟨hm', h.engine_ne hm' hf⟩
  · rw [analyser] at hr'
    cases hr'
    exact ⟨hr, by rw [bank]; exact hx⟩

theorem State.SlotsLaw.takeReady {s : State} (h : s.SlotsLaw) : s.takeReady.SlotsLaw := by
  unfold State.takeReady
  split
  next =>
    split
    next hs => exact h.startAnalysis _ (Bank.slots_of_full hs) (by simp [hs]) rfl rfl
    next hs hr => exact h.startAnalysis _ (Bank.slots_of_waiting hs hr) (by simp [hs]) rfl rfl
    next => exact h
  next => exact h

/-- The bank of a completed analysis is HELD without a reanalysis, or FREE (R84). -/
theorem State.settleBank_slots (s : State) (n : BankName) (c : SweepContext) :
    ((s.settleBank n c).bank n).slots = 0 ∧ (s.settleBank n c).bank (otherBank n) = s.bank (otherBank n) := by
  obtain ⟨_, kept, freed, other, _⟩ := s.settleBank_settled n c
  refine ⟨?_, other⟩
  by_cases hk : c.retain = true ∧ (s.bank (otherBank n)).held = false
  · rw [(kept hk).2.1]
    exact Bank.slots_of_idle rfl rfl
  · rw [(freed hk).2.1]
    exact Bank.slots_of_free rfl

/-- The work of the analyser's bank has ended, and the analyser is IDLE. -/
theorem State.SlotsLaw.endAnalysis {s t : State} (h : s.SlotsLaw) {r : AnalysisRecord}
    (hr : s.analyser.record = some r) (hother : t.bank (otherBank r.bank) = s.bank (otherBank r.bank))
    (hbank : (t.bank r.bank).slots = 0) {l ends : List Record} (hl : l.length ≤ 9)
    (hreports : t.reports = (s.reports.worked l).edgedAll ends) (hengine : t.engine.bank = s.engine.bank)
    (hrecord : t.analyser.record = none) : t.SlotsLaw := by
  have analysing := h.2.2.2 r hr
  refine h.endWork (Bank.slots_of_analysing analysing) hother hbank hl hreports (fun m hm => ?_) fun r' hr' => ?_
  · rw [hengine] at hm
    exact ⟨hm, h.engine_ne hm (by simp [analysing])⟩
  · rw [hrecord] at hr'
    cases hr'

theorem State.SlotsLaw.completeAnalysis {s : State} (h : s.SlotsLaw) {r : AnalysisRecord}
    (hr : s.analyser.record = some r) : (s.completeAnalysis r).SlotsLaw := by
  obtain ⟨slots, other⟩ := s.settleBank_slots r.bank r.context
  unfold State.completeAnalysis State.takeResult
  dsimp only
  generalize hs' : s.settleBank r.bank r.context = settled at *
  obtain ⟨_, _, _, _, _, few⟩ := settled.judgeResult_rules r (s.traceOf r)
  generalize hj : settled.judgeResult (r.result (s.traceOf r)) = j at *
  generalize hl : (Record.spanResult (settled.analysedResult (r.result (s.traceOf r)) j
    (s.keepsTrace r.bank r.context)) :: findingRecords (r.result (s.traceOf r)).context.span 1 j.list.findings) = l
  have length : l.length ≤ 9 := by
    rw [← hl, List.length_cons, findingRecords_length]
    omega
  obtain ⟨worked, _⟩ := State.putWork_worked (s := j.state) (l := l) (by simp [← hl]) length
  obtain ⟨ends, _, edged, _⟩ := (j.state.putWork l).countEnded_counted (r.result (s.traceOf r)).context.cycle
    (r.result (s.traceOf r)).context.countedAs
  have banks : j.state.banks = settled.banks := by simp [← hj]
  have reports : j.state.reports = s.reports := by simp [← hj, ← hs']
  have engine : j.state.engine.bank = s.engine.bank := by simp [← hj, ← hs']
  refine State.SlotsLaw.takeReady (h.endAnalysis hr ?_ ?_ length (ends := ends) ?_ ?_ ?_)
  · rw [← other]
    exact State.bank_congr (by simp [banks]) _
  · rw [State.bank_congr (s := settled) (by simp [banks])]
    exact slots
  · simp [edged, worked, reports]
  · simp [engine]
  · simp [State.idleAnalyser]

theorem State.backToHeld_slots (s : State) (n : BankName) :
    ((s.backToHeld n).bank n).slots = 0 ∧ (s.backToHeld n).bank (otherBank n) = s.bank (otherBank n) := by
  obtain ⟨freed, other, _⟩ := s.freeBank_freed n
  unfold State.backToHeld
  split
  next =>
    rw [freed]
    exact ⟨Bank.slots_of_free rfl, other⟩
  next =>
    rw [State.bank_setBank, State.bank_setBank_ne _ (otherBank_ne n)]
    exact ⟨Bank.slots_of_idle rfl rfl, rfl⟩

@[simp] theorem State.backToHeld_bank (s : State) (n : BankName) :
    (s.backToHeld n).engine.bank = s.engine.bank := by
  unfold State.backToHeld
  split <;> simp

theorem State.SlotsLaw.completeReanalysis {s : State} (h : s.SlotsLaw) {r : AnalysisRecord}
    (hr : s.analyser.record = some r) : (s.completeReanalysis r).SlotsLaw := by
  unfold State.completeReanalysis
  dsimp only
  generalize hl : (Record.spanResult (s.reanalysisResult (r.result (s.traceOf r))) ::
    findingRecords (r.result (s.traceOf r)).context.span 1 (r.result (s.traceOf r)).found.findings) = l
  have length : l.length ≤ 9 := by
    have few : (r.result (s.traceOf r)).found.findings.length ≤ 8 := (r.analyse_lengths (s.traceOf r)).1
    rw [← hl, List.length_cons, findingRecords_length]
    omega
  obtain ⟨worked, _⟩ := State.putWork_worked (s := s) (l := l) (by simp [← hl]) length
  obtain ⟨slots, other⟩ := (s.putWork l).backToHeld_slots r.bank
  refine State.SlotsLaw.takeReady (h.endAnalysis hr ?_ slots length (ends := []) ?_ ?_ ?_)
  · exact other.trans (State.bank_congr (by simp) _)
  · simp [State.idleAnalyser, worked, Reports.edgedAll]
  · simp
  · simp [State.idleAnalyser]

theorem SweepEvent.slotsLaw {s t : State} (e : SweepEvent s t) (h : s.SlotsLaw) : t.SlotsLaw := by
  cases e with
  | sweepStart => exact h.sweepStart
  | sweepComplete => exact h.sweepComplete
  | closingActions => exact h.closingActions
  | analysisCompletes =>
    unfold State.analysisCompletes
    split
    next hr => split <;> [exact h.completeAnalysis hr; exact h]
    next => exact h
  | reanalysisCompletes =>
    unfold State.reanalysisCompletes
    split
    next hr => split <;> [exact h.completeReanalysis hr; exact h]
    next => exact h

/-! ### The banks -/

theorem State.SlotsLaw.freeBank {s : State} (h : s.SlotsLaw) (n : BankName) (hs : (s.bank n).slots = 0) :
    (s.freeBank n).SlotsLaw := by
  have freed : (s.setBank n (s.bank n).freed).SlotsLaw := h.setBank_idle n hs (Bank.slots_of_free rfl)
  unfold State.freeBank
  split
  next => exact (freed.raise .holdExpired).choose
  next => exact freed.choose

theorem State.SlotsLaw.holdExpires {s : State} (h : s.SlotsLaw) (n : BankName) : (s.holdExpires n).SlotsLaw := by
  unfold State.holdExpires
  split
  next =>
    have expired := h.setBank n (x := { s.bank n with hold := .expired }) rfl rfl
    dsimp only
    split
    next hidle =>
      simp only [Bool.and_eq_true, beq_iff_eq] at hidle
      refine expired.freeBank n ?_
      rw [State.bank_setBank]
      exact Bank.slots_of_idle hidle.1 hidle.2
    next => exact expired.setBank n rfl rfl
  next => exact h

theorem State.SlotsLaw.exportSent {s : State} (h : s.SlotsLaw) (f : ExportFrame) : (s.exportSent f).SlotsLaw := by
  unfold State.exportSent
  split
  next hs _ =>
    have none := Bank.slots_of_exporting hs
    split
    next =>
      split
      next =>
        unfold State.backToHeld
        split
        next => exact h.freeBank f.bank none
        next => exact h.setBank_idle f.bank none (Bank.slots_of_idle rfl rfl)
      next => exact h.setBank f.bank rfl rfl
    next => exact h
  next => exact h

theorem BankEvent.slotsLaw {s t : State} (e : BankEvent s t) (h : s.SlotsLaw) : t.SlotsLaw := by
  cases e with
  | takeReady => exact h.takeReady
  | holdExpires n => exact h.holdExpires n
  | exportSent f => exact h.exportSent f
  | exportBegins f =>
    unfold State.exportBegins
    split <;> [exact h.setBank f.bank rfl rfl; exact h]

theorem State.SlotsLaw.releaseBank {s : State} (h : s.SlotsLaw) (n : BankName) : (s.releaseBank n).SlotsLaw := by
  unfold State.releaseBank
  split
  next => exact h
  next =>
    split
    next => exact h.setBank n rfl rfl
    next =>
      split
      next hidle =>
        simp only [Bool.and_eq_true, beq_iff_eq] at hidle
        exact h.freeBank n (Bank.slots_of_idle hidle.1 hidle.2)
      next => exact h.setBank n rfl rfl

/-- The guard of TRACE_EXPORT and REANALYSE: HELD, and no reanalysis waits or runs. -/
theorem State.held_of_guard {s : State} {n : BankName}
    (h : ¬(!((s.bank n).state == .held && (s.bank n).reanalysis == .idle)) = true) :
    (s.bank n).state = .held ∧ (s.bank n).reanalysis = .idle := by
  simpa using h

theorem State.SlotsLaw.traceExport {s : State} (h : s.SlotsLaw) (tag : Byte) (start count : Half) :
    (s.traceExport tag start count).state.SlotsLaw := by
  unfold State.traceExport
  split
  next => exact h
  next =>
    split
    next => exact h
    next n _ =>
      split
      next => exact h
      next hguard =>
        obtain ⟨held, idle⟩ := State.held_of_guard hguard
        split
        next => exact h
        next =>
          split
          next => exact h
          next => exact h.setBank_idle n (Bank.slots_of_idle held idle) (Bank.slots_of_exporting rfl)

theorem State.SlotsLaw.reanalyse {s : State} (h : s.SlotsLaw) (profile : Byte) :
    (s.reanalyse profile).state.SlotsLaw := by
  unfold State.reanalyse
  split
  next => exact h
  next p _ =>
    split
    next => exact h
    next n _ =>
      split
      next => exact h
      next hguard =>
        obtain ⟨held, idle⟩ := State.held_of_guard hguard
        split
        next => exact h
        next hgrants =>
          have room := Reports.room_of_grants (r := s.reports) (by simpa using hgrants)
          generalize ht : ((s.reserve.setBank n { s.bank n with reanalysis := .waiting p }).withBanks _).ok.state = t
          have bank : t.bank n = { s.bank n with reanalysis := .waiting p } := by rw [← ht]; cases n <;> rfl
          have other : t.bank (otherBank n) = s.bank (otherBank n) := by rw [← ht]; cases n <;> rfl
          have reports : t.reports = { s.reports with reserved := s.reports.reserved + 9 } := by
            rw [← ht]; cases n <;> rfl
          have engine : t.engine = s.engine := by rw [← ht]; cases n <;> rfl
          have analyser : t.analyser = s.analyser := by rw [← ht]; cases n <;> rfl
          refine h.change n other ?_ ?_ (fun m hm => .inl ?_) fun r hr => .inl ?_
          · simp only [reports, Reports.Fits, Reports.occupancy, Config.reportSlots]
            omega
          · have waiting : (t.bank n).slots = 9 :=
              Bank.slots_of_waiting (p := p) (by rw [bank]; exact held) (by rw [bank])
            rw [reports, Bank.slots_of_idle held idle, waiting]
          · rw [engine] at hm
            exact ⟨hm, h.engine_ne hm (by simp [held])⟩
          · rw [analyser] at hr
            exact ⟨hr, h.record_ne hr (by simp [held])⟩

/-! ### The other commands, and the resets -/

theorem State.SlotsLaw.replay {s : State} (h : s.SlotsLaw) (n m : Nat) : (s.replay n m).SlotsLaw := by
  induction n generalizing s m with
  | zero => exact h
  | succ n ih =>
    have matched := (h.setTime (.ofSeconds (m * 60))).evaluateMatches .stepped
    refine ih ?_ (m + 1)
    unfold State.replayBoundary State.closeDecided
    split <;> [exact matched; exact matched.closingActions]

theorem State.SlotsLaw.stepForward {s : State} (h : s.SlotsLaw) (k : Nat) : (s.stepForward k).SlotsLaw := by
  unfold State.stepForward
  exact (h.replay _ _).setTime _

theorem State.SlotsLaw.stepBack {s : State} (h : s.SlotsLaw) (k : Nat) : (s.stepBack k).SlotsLaw := by
  unfold State.stepBack
  exact h.setTime _

theorem State.SlotsLaw.clockStep {s : State} (h : s.SlotsLaw) (seconds : Half) :
    (s.clockStep seconds).state.SlotsLaw := by
  unfold State.clockStep
  split
  next => exact h
  next =>
    split
    next => exact h
    next => split <;> [exact h.stepForward _; exact h.stepBack _]

theorem State.SlotsLaw.setWindowMode {s : State} (h : s.SlotsLaw) (mode : Byte) :
    (s.setWindowMode mode).state.SlotsLaw := by
  unfold State.setWindowMode
  split
  next m _ =>
    cases m with
    | schedule => exact h
    | forcedOpen => exact (h.withWindow _).openWindow .forced
    | forcedClosed => exact (h.withWindow _).leaveOpen .forced
  next => exact h

theorem State.SlotsLaw.testNow {s : State} (h : s.SlotsLaw) (span retain : Byte) :
    (s.testNow span retain).state.SlotsLaw := by
  have placed : ∀ (sp : Span) (r : Bool), (s.placeRetain sp r).SlotsLaw := fun sp r => by
    unfold State.placeRetain
    split <;> [exact h.congr (fun n => by cases n <;> exact ⟨rfl, rfl⟩) rfl rfl rfl h.fits; exact h]
  have served : ∀ {u : State} (sp : Span) (r : Bool), u.SlotsLaw → (u.serveTest sp r).SlotsLaw :=
    fun {u} sp r hu => by
      have filled : (u.fillSlot sp).SlotsLaw :=
        State.SlotsLaw.choose (s := u.withEngine { u.engine with onDemand := some sp }) hu
      unfold State.serveTest
      split
      next => exact filled
      next => exact filled
      next => exact filled
      next c _ _ _ _ =>
        split
        next => exact hu.setContext _
        next =>
          split
          next => exact filled.same (by simp) (by simp [State.preempt]) (by simp) (by simp)
          next => exact filled
      next => exact filled
  unfold State.testNow
  split
  next sp r _ _ =>
    split
    next => exact h
    next => split <;> [exact h; split <;> [exact h; exact served sp r (placed sp r)]]
  next => exact h

/-- A change of the marks leaves records and reservations (R158). -/
theorem State.applyMarks_records (s : State) :
    s.applyMarks.reports.records = s.reports.records ∧ s.applyMarks.reports.reserved = s.reports.reserved := by
  unfold State.applyMarks
  split
  next => simp
  next => split <;> simp

theorem State.SlotsLaw.settingsWrite {s : State} (h : s.SlotsLaw) (pairs : List (Byte × Half)) :
    (s.settingsWrite pairs).state.SlotsLaw := by
  have stored : ∀ x, (s.storeSettings x).SlotsLaw := fun x =>
    h.congr (fun n => by cases n <;> exact ⟨rfl, rfl⟩) rfl rfl rfl h.fits
  have marked : ∀ x, (s.storeSettings x).applyMarks.SlotsLaw := fun x => by
    obtain ⟨records, reserved⟩ := (s.storeSettings x).applyMarks_records
    refine (stored x).sameBanks (by simp) (by simp) (by simp) reserved ?_
    simpa only [Reports.Fits, Reports.occupancy, records, reserved] using (stored x).fits
  unfold State.settingsWrite State.writeSettings
  (repeat' split)
  next => exact stored _
  next => exact marked _
  next => exact h
  next => exact h
  next => exact h

theorem State.SlotsLaw.perform {s : State} (h : s.SlotsLaw) (tag : Byte) (c : LinkCommand) :
    (s.perform tag c).state.SlotsLaw := by
  cases c with
  | planWrite span enabled port group =>
    change (s.planWrite span enabled port group).state.SlotsLaw
    unfold State.planWrite
    (repeat' split) <;> exact h.same (by simp [State.ok, State.refuse]) (by simp [State.ok, State.refuse])
      (by simp [State.ok, State.refuse]) (by simp [State.ok, State.refuse])
  | clockStep seconds => exact h.clockStep seconds
  | windowMode mode => exact h.setWindowMode mode
  | testNow span retain => exact h.testNow span retain
  | retainRequest span =>
    change (s.retainRequest span).state.SlotsLaw
    unfold State.retainRequest
    (repeat' split) <;> exact h.congr (fun n => by cases n <;> exact ⟨rfl, rfl⟩) rfl rfl rfl h.fits
  | traceExport start count => exact h.traceExport tag start count
  | reanalyse profile => exact h.reanalyse profile
  | bankRelease =>
    change (s.bankRelease).state.SlotsLaw
    unfold State.bankRelease
    split <;> [exact h; exact h.releaseBank _]
  | profileWrite profile floor p g bend grown drop tol blind confirm clear =>
    change (s.profileWrite profile floor p g bend grown drop tol blind confirm clear).state.SlotsLaw
    unfold State.profileWrite
    split <;> exact h
  | baselineLoad span cls len launch e zones =>
    change (s.baselineLoad span cls len launch e zones).state.SlotsLaw
    unfold State.baselineLoad
    (repeat' split) <;> exact h.same (by simp [State.ok, State.refuse]) (by simp [State.ok, State.refuse])
      (by simp [State.ok, State.refuse]) (by simp [State.ok, State.refuse])
  | baselineDrop span =>
    change (s.baselineDrop span).state.SlotsLaw
    unfold State.baselineDrop
    (repeat' split) <;> exact h.same (by simp [State.ok, State.refuse]) (by simp [State.ok, State.refuse])
      (by simp [State.ok, State.refuse]) (by simp [State.ok, State.refuse])
  | conditionClear span =>
    change (s.conditionClear span).state.SlotsLaw
    unfold State.conditionClear
    split <;> exact h.same (by simp [State.ok, State.refuse]) (by simp [State.ok, State.refuse])
      (by simp [State.ok, State.refuse]) (by simp [State.ok, State.refuse])
  | drain n =>
    change (s.drain n).state.SlotsLaw
    unfold State.drain
    split <;> [exact h; split <;> [exact h; exact h.takeRecords _]]
  | settingsWrite pairs => exact h.settingsWrite pairs
  | _ =>
    exact h.same (by simp [State.perform]) (by simp [State.perform]) (by simp [State.perform]) (by simp [State.perform])

/-- After a reset no record is held, no slot reserved, no bank at work (R94, R133, R160). -/
theorem ResetEvent.slotsLaw {s t : State} (e : ResetEvent s t) : t.SlotsLaw := by
  have initial : ∀ {u : State}, u.reports.records = [] → u.reports.reserved = 0 → (∀ n, (u.bank n).state = .free) →
      u.engine.bank = none → u.analyser.record = none → u.SlotsLaw := fun hr hs hb he ha => by
    refine ⟨by simp [hr, hs, Reports.occupancy], ?_, fun n hn => by simp [he] at hn, fun r hr => by simp [ha] at hr⟩
    rw [State.slots_split _ .a, Bank.slots_of_free (hb _), Bank.slots_of_free (hb _), hs]
  cases e with
  | hardReset cause => exact initial rfl rfl (fun n => by cases n <;> rfl) rfl rfl
  | resetEffect k =>
    cases k with
    | fullReset => exact initial rfl rfl (fun n => by cases n <;> rfl) rfl rfl
    | restart =>
      have blocks : s.restartBlocks.SlotsLaw := initial rfl rfl (fun n => by cases n <;> rfl) rfl rfl
      unfold State.resetEffect State.restart
      dsimp only
      split
      next => exact blocks.startCycle.choose
      next => split <;> [exact blocks.enterClosed.choose; exact blocks.choose]
      next => exact blocks.choose

theorem slotsLaw_keptByParts : KeptByParts State.SlotsLaw where
  pending _ h := h
  link _ _ h := h
  command tag c h := h.perform tag c
  report {s} h := State.SlotsLaw.takeRecords
    (s := s.withReports { s.reports with sequence := nextByte s.reports.sequence }) h Config.reportRecords
  shot e h := e.slotsLaw h
  clock e h := e.slotsLaw h
  sweep e h := e.slotsLaw h
  bank e h := e.slotsLaw h
  reset e _ := e.slotsLaw

/-- Settles O59: a bank's work is given its 9 slots when it starts and gives them back with its records, and an edge record
takes a slot that is neither occupied nor reserved. -/
theorem everyStepKeepsTheSlotsLaw : Obligations.EveryStepKeepsTheSlotsLaw := by
  intro s t h ht
  exact slotsLaw_keptByParts.step_keeps h ht

end Sys2Proof.Machine

/-! Proofs of the statements about a single step, the state after a reset, and the taking of a shelf command: whatever
reaches the dispatcher is answered by its owner, or waits in the command queue. -/

namespace Sys2Proof.Machine

/-! ### One step -/

/-- Settles O1: a step takes the front command by definition. -/
theorem frontCommandRuns : Obligations.FrontCommandRuns := by
  intro c rest s
  rfl

theorem step_of_empty {s : State} (h : s.pending = []) : step s = .next s.idleStep := by
  unfold step
  rw [h]

theorem State.refclkEdge_of_lost {s : State} (h : s.window.reference = .lost) : s.refclkEdge = s := by
  simp [State.refclkEdge, h]

theorem State.refclkEdge_of_present {s : State} (h : s.window.reference = .present) :
    s.refclkEdge = if s.window.divider + 1 < 32768 then
      s.withWindow { s.window with divider := s.window.divider + 1 } else s.secondPasses := by
  simp [State.refclkEdge, h, Config.edgesPerSecond]

theorem State.secondEvent_of_present {s : State} (h : s.window.reference = .present) :
    s.secondEvent = s.secondPasses := by
  simp [State.secondEvent, h]

/-- Settles O2: the empty queue's step is the REFCLK edge with the arbiter's grant. -/
theorem emptyQueueCountsOneEdge : Obligations.EmptyQueueCountsOneEdge := by
  intro s hs
  refine ⟨fun hlost => ?_, fun hpresent hlt => ?_, fun hpresent hle => ?_⟩
  · rw [step_of_empty hs, State.idleStep, State.refclkEdge_of_lost hlost]
  · rw [step_of_empty hs, State.idleStep, State.refclkEdge_of_present hpresent, if_pos hlt]
    rfl
  · rw [step_of_empty hs, State.idleStep, State.refclkEdge_of_present hpresent, if_neg (by omega)]
    change _ = Host.Outcome.next s.secondEvent.grant
    rw [State.secondEvent_of_present hpresent]

/-! ### The state after a reset -/

/-- Settles O3: nothing is written yet at power-on. -/
theorem resetStateKeepsTheLaws : Obligations.ResetStateKeepsTheLaws := by
  obtain ⟨pool, ports, live⟩ := State.reset_tableLaws
  obtain ⟨recheck, conditions, faulted⟩ := State.reset_judgedLaws
  refine ⟨pool, ports, live, ?_, recheck, conditions, faulted, State.cycleLaw_of_none rfl, ?_, fun n => ?_, ?_⟩
  · simp [State.IntakeLaw, State.reset, Port.initial, Port.expected]
  · refine ⟨Nat.zero_le _, rfl, fun n hn => ?_, fun r hr => ?_⟩
    · cases hn
    · cases hr
  · cases n <;> rfl
  · exact Nat.zero_le _

/-- What POWER_ON and RESET_INPUT leave (R176). -/
theorem State.hardReset_eq (s : State) (cause : ResetCause) :
    s.hardReset cause =
      { State.reset with
        banks := { State.reset.banks with
          a := { Bank.initial with sums := s.banks.a.sums }, b := { Bank.initial with sums := s.banks.b.sums } },
        link := { Link.initial with transmitter := s.link.transmitter, lastReset := cause },
        outputs := s.outputs, freeCount := s.freeCount, pending := s.pending } := by
  apply State.ext_fields
  case h10 =>
    exact (by decide : ({ pending := kindBit NoticeKind.restarted.number ||| (0 ||| 0 ||| 0), mask := defaultMask } :
      Notices) = Notices.initial)
  all_goals rfl

/-- Settles O4: the values of power-on, block by block. -/
theorem hardResetLeavesThePowerOnValues : Obligations.HardResetLeavesThePowerOnValues := by
  refine ⟨fun s => ⟨congrArg _ (s.hardReset_eq .powerOn), congrArg _ (s.hardReset_eq .resetInput)⟩, fun sp => ?_, ?_⟩
  · refine ⟨tableGet_replicate _ sp, tableGet_replicate _ sp, ?_⟩
    exact congrArg ConditionEntry.state (tableGet_replicate ConditionEntry.initial sp)
  · decide

/-! ### A shelf command that is taken at once, or waits -/

/-- Settles O5: the answer of the owner is placed, whatever the command. -/
theorem shelfCommandIsTakenAndAnswered : Obligations.ShelfCommandIsTakenAndAnswered :=
  fun _ _ _ _ hi hs => answers_of_perform hi hs rfl

/-- A frame that the dispatcher is not free to take (R168). -/
theorem State.enqueue_eq (s : State) (f : CommandFrame) :
    (s.link.queue.length < 4 → s.enqueue f = { s with link := { s.link with queue := s.link.queue ++ [f] } }) ∧
      (4 ≤ s.link.queue.length → s.enqueue f = s.discarded) := by
  unfold State.enqueue Config.commandSlots
  exact ⟨fun h => if_pos h, fun h => if_neg (by omega)⟩

/-- The row of a frame that is not taken at once puts the frame in the queue. -/
theorem exec_waits {i : Instr} {f : CommandFrame} {s : State} (hi : rowFrame i = some f) (hs : s.linkFree = false) :
    exec i s = .next (s.enqueue f) := by
  cases hlink : i.asLink with
  | some x =>
    obtain ⟨tag, c⟩ := x
    have hf : f = { tag := tag, payload := encodePayload c } := by
      cases i with
      | unknownCommand tag payload => cases hlink
      | _ => simpa [rowFrame, hlink, eq_comm] using hi
    rw [exec_shelf hlink, State.receive, if_neg (by simp [hs]), hf]
  | none =>
    cases i with
    | unknownCommand tag payload =>
      cases hi
      change Host.Outcome.next (s.receiveFrame _) = _
      rw [State.receiveFrame, if_neg (by simp [hs])]
    | _ => simp [rowFrame, hlink] at hi

/-- Settles O6: a command that is not taken at once waits as its frame. -/
theorem commandWaitsInTheQueueOrIsDiscarded : Obligations.CommandWaitsInTheQueueOrIsDiscarded := by
  intro i f s hi hs
  obtain ⟨waits, discarded⟩ := s.enqueue_eq f
  exact ⟨fun h => (exec_waits hi hs).trans (congrArg _ (waits h)),
    fun h => (exec_waits hi hs).trans (congrArg _ (discarded h))⟩

/-- A RESPONSE that is granted at once is placed as R169 and R171 say. -/
theorem State.answer_grant_answered (s : State) (d : Dispatcher) (r : Response) :
    (s.answer d r).grant = { s with link := (s.answer d r).grant.link } ∧ Answered s (s.answer d r).grant d r := by
  rw [State.answer_grant]
  cases h : s.link.transmitter <;> simp [Answered, State.withLink, h]

/-- A code that names no command is found in no row of the table (R169, case 2). -/
theorem ofCode_eq_none {code : Byte} {fields : List Byte} (h : namesNoCommand (code :: fields) = true) :
    CommandName.ofCode code = none := by
  cases hn : CommandName.ofCode code with
  | none => rfl
  | some n =>
    have hcode : n.code = code := by simpa using List.find?_some hn
    have named := n.code_named fields
    rw [hcode, h] at named
    cases named

/-- A frame whose payload names no command is answered without an effect (R169, cases 1 and 2). -/
theorem State.runFrame_unnamed (s : State) (f : CommandFrame) (h : namesNoCommand f.payload = true) :
    s.runFrame f = s.answer .answering
      { tag := f.tag, status := if f.payload = [] then .malformed else .unknownCommand,
        code := f.payload.headD 0, results := .nothing } := by
  obtain ⟨tag, payload⟩ := f
  cases payload with
  | nil => rfl
  | cons code fields =>
    have : decodePayload (code :: fields) = .unknown := by simp [decodePayload, ofCode_eq_none h]
    simp [State.runFrame, this, payloadCode]

/-- Settles O7: a payload that names no command decodes to none, and the answer alone is placed. -/
theorem unknownCommandIsAnswered : Obligations.UnknownCommandIsAnswered := by
  intro tag payload s hs hwf
  have unnamed : namesNoCommand payload = true := (Bool.and_eq_true_iff.mp hwf).2
  obtain ⟨link, answered⟩ := s.answer_grant_answered .answering
    { tag := tag, status := if payload = [] then .malformed else .unknownCommand, code := payload.headD 0,
      results := .nothing }
  refine ⟨_, ?_, link, answered⟩
  change Host.Outcome.next (s.receiveFrame _) = _
  rw [State.receiveFrame, if_pos hs, s.runFrame_unnamed _ unnamed]

end Sys2Proof.Machine

/-! Proofs of the statements about bytes: what a command's payload decodes to, the layouts of the frames the part sends, and
the bytes of a frame taken one by one by the framer. -/

namespace Sys2Proof.Machine

/-! ### Fields of a payload, back from their bytes -/

theorem halfOf_halfBytes (h : Half) : halfOf (h.extractLsb' 8 8) (h.extractLsb' 0 8) = h := by
  apply BitVec.eq_of_toNat_eq
  simp only [halfOf, BitVec.toNat_append, BitVec.extractLsb'_toNat]
  have := h.isLt
  rw [← Nat.shiftLeft_add_eq_or_of_lt (by omega)]
  omega

theorem wordOf_wordBytes (w : Word) :
    wordOf (w.extractLsb' 24 8) (w.extractLsb' 16 8) (w.extractLsb' 8 8) (w.extractLsb' 0 8) = w := by
  apply BitVec.eq_of_toNat_eq
  simp only [wordOf, BitVec.toNat_append, BitVec.extractLsb'_toNat]
  have := w.isLt
  rw [← Nat.shiftLeft_add_eq_or_of_lt (by omega), ← Nat.shiftLeft_add_eq_or_of_lt (by omega),
    ← Nat.shiftLeft_add_eq_or_of_lt (by omega)]
  omega

theorem stagePairsOf_bytes (l : List (Byte × Word)) : stagePairsOf (stagePairBytes l) = some l := by
  induction l with
  | nil => rfl
  | cons p l ih =>
    obtain ⟨field, value⟩ := p
    simp [stagePairBytes, wordBytes, stagePairsOf, ih, wordOf_wordBytes]

theorem settingPairsOf_bytes (l : List (Byte × Half)) : settingPairsOf (settingPairBytes l) = some l := by
  induction l with
  | nil => rfl
  | cons p l ih =>
    obtain ⟨ident, value⟩ := p
    simp [settingPairBytes, halfBytes, settingPairsOf, ih, halfOf_halfBytes]

theorem maskPairsOf_bytes (l : List (Byte × Byte)) : maskPairsOf (maskPairBytes l) = some l := by
  induction l with
  | nil => rfl
  | cons p l ih => simp [maskPairBytes, maskPairsOf, ih]

theorem zonesOf_bytes (l : List ZoneWords) : zonesOf (zoneBytes l) = some l := by
  induction l with
  | nil => rfl
  | cons z l ih => simp [zoneBytes, halfBytes, zonesOf, ih, halfOf_halfBytes]

theorem ofCount_countByte {α : Type} {l : List α} (h : l.length < 256) : ofCount (countByte l) (some l) = some l := by
  simp [ofCount, countByte, Nat.mod_eq_of_lt h]

theorem ofCode_code (n : CommandName) : CommandName.ofCode n.code = some n := by
  cases n <;> rfl

/-! ### Payloads -/

/-- The number that the count byte of a command's list declares (R178). -/
def listCount : LinkCommand → Nat
  | .groupStage _ pairs => pairs.length
  | .groupCommit groups => groups.length
  | .baselineLoad _ _ _ _ _ zones => zones.length
  | .noticeAck kinds => kinds.length
  | .noticeMask pairs => pairs.length
  | .settingsWrite pairs => pairs.length
  | _ => 0

/-- The list of a command that fits a frame fits its count byte. -/
theorem listCount_lt {i : Instr} {tag : Byte} {c : LinkCommand} (hi : i.asLink = some (tag, c))
    (hw : i.wellFormed = true) : listCount c < 256 := by
  cases i <;> cases hi <;> simp only [Instr.wellFormed, decide_eq_true_eq, listCount] at hw ⊢ <;> omega

theorem decodeFields_fieldBytes {c : LinkCommand} (h : listCount c < 256) :
    decodeFields c.name c.fieldBytes = some c := by
  cases c with
  | groupStage group pairs =>
    simp [LinkCommand.name, decodeFields, LinkCommand.fieldBytes, groupStageFields, stagePairsOf_bytes, ofCount_countByte h]
  | groupCommit groups =>
    simp [LinkCommand.name, decodeFields, LinkCommand.fieldBytes, countedFields, ofCount_countByte h]
  | noticeAck kinds =>
    simp [LinkCommand.name, decodeFields, LinkCommand.fieldBytes, countedFields, ofCount_countByte h]
  | noticeMask pairs =>
    simp [LinkCommand.name, decodeFields, LinkCommand.fieldBytes, countedFields, maskPairsOf_bytes, ofCount_countByte h]
  | settingsWrite pairs =>
    simp [LinkCommand.name, decodeFields, LinkCommand.fieldBytes, countedFields, settingPairsOf_bytes,
      ofCount_countByte h]
  | baselineLoad span cls len launch e zones =>
    simp [LinkCommand.name, decodeFields, LinkCommand.fieldBytes, baselineLoadFields, halfBytes, zonesOf_bytes,
      ofCount_countByte h, halfOf_halfBytes]
  | clockStep seconds =>
    simp [LinkCommand.name, decodeFields, LinkCommand.fieldBytes, twoFields, halfBytes, halfOf_halfBytes]
  | traceExport start count =>
    simp [LinkCommand.name, decodeFields, LinkCommand.fieldBytes, fourFields, halfBytes, halfOf_halfBytes]
  | profileWrite =>
    simp [LinkCommand.name, decodeFields, LinkCommand.fieldBytes, profileWriteFields, halfBytes, halfOf_halfBytes]
  | _ => rfl

theorem decodePayload_encodePayload {c : LinkCommand} (h : listCount c < 256) :
    decodePayload (encodePayload c) = .command c := by
  simp [encodePayload, decodePayload, ofCode_code, decodeFields_fieldBytes h]

/-! ### The frames the part sends -/

theorem Status.code_eq (x : Status) : x.code = codeFrom 0 [.ok, .accepted, .busy, .range, .noSpace, .conflict, .notFound,
    .unknownCommand, .malformed, .clockInvalid] x := by
  cases x <;> rfl

theorem BankName.code_eq (x : BankName) : BankName.code x = codeFrom 0 [.a, .b] x := by
  cases x <;> rfl

theorem RecordReason.code_eq (x : RecordReason) :
    x.code =
      match x with
      | .sweep r => codeFrom 0 [.plan, .confirm, .escalate, .retry, .onDemand] r
      | .reanalysis => 5 := by
  rcases x with r | _
  · cases r <;> rfl
  · rfl

theorem AnalysisOutcome.code_eq (x : AnalysisOutcome) : x.code = codeFrom 0 [.analysed, .endOnly, .escalated] x := by
  cases x <;> rfl

theorem ResultOutcome.code_eq (x : ResultOutcome) :
    x.code =
      match x with
      | .analysis o => codeFrom 0 [.analysed, .endOnly, .escalated] o
      | .engine o => codeFrom 3 [.lit, .noPort, .mute, .hot, .cut, .preempted] o := by
  rcases x with o | o <;> cases o <;> rfl

theorem Condition.code_eq (x : Condition) : x.code = codeFrom 0 [.unknown, .clear, .suspect, .faulted] x := by
  cases x <;> rfl

theorem Cause.code_eq (x : Cause) :
    x.code = codeFrom 0 [.firstClear, .suspected, .confirmed, .transient, .unstable, .changed, .restored] x := by
  cases x <;> rfl

theorem FindingKind.code_eq (x : FindingKind) : x.code = codeFrom 0 [.fibreBreak, .bend, .grown, .unreached] x := by
  cases x <;> rfl

theorem FindingStatus.code_eq (x : FindingStatus) : x.code = codeFrom 0 [.new, .confirmed] x := by
  cases x <;> rfl

theorem EndKind.code_eq (x : EndKind) : x.code = codeFrom 0 [.splice, .connector, .fibreEnd] x := by
  cases x <;> rfl

theorem CycleReason.code_eq (x : CycleReason) : x.code = codeFrom 0 [.wrap, .close] x := by
  cases x <;> rfl

theorem Edge.code_eq (x : Edge) : x.code = codeFrom 0 [.opened, .closed] x := by
  cases x <;> rfl

theorem EdgeCause.code_eq (x : EdgeCause) : x.code = codeFrom 0 [.matched, .forced, .clockLost, .stepped] x := by
  cases x <;> rfl

theorem Integrity.code_eq (x : Integrity) : x.code = codeFrom 0 [.invalid, .valid] x := by
  cases x <;> rfl

theorem WindowMode.code_eq (x : WindowMode) : x.code = codeFrom 0 [.schedule, .forcedOpen, .forcedClosed] x := by
  cases x <;> rfl

theorem WindowState.code_eq (x : WindowState) : x.code = codeFrom 0 [.closed, .opened, .closing] x := by
  cases x <;> rfl

theorem Reference.code_eq (x : Reference) : x.code = codeFrom 0 [.present, .lost] x := by
  cases x <;> rfl

theorem EngineState.code_eq (x : EngineState) :
    x.code = codeFrom 0 [.idle, .waiting, .selecting, .settling, .darkCheck, .firing, .hotHold, .draining] x := by
  cases x <;> rfl

theorem BankState.code_eq (x : BankState) :
    x.code = codeFrom 0 [.free, .filling, .full, .analysing, .held, .exporting] x := by
  cases x <;> rfl

theorem Gate.code_eq (x : Gate) : x.code = codeFrom 0 [.cool, .hot] x := by
  cases x <;> rfl

theorem ResetCause.code_eq (x : ResetCause) : x.code = codeFrom 0 [.powerOn, .resetInput, .fullReset, .restart] x := by
  cases x <;> rfl

theorem optSpanByte_eq (x : Option Span) : optSpanByte x = (x.map fun sp => byteOf sp.val).getD 0xFF := by
  cases x <;> rfl

theorem orAbsent_eq (absent : Nat) (x : Option Nat) : orAbsent absent x = x.getD absent := by
  cases x <;> rfl

theorem map_code_getD {α : Type} {f g : α → Byte} (h : ∀ x, f x = g x) (x : Option α) (d : Byte) :
    (x.map f).getD d = (x.map g).getD d := by
  rw [funext h]

theorem GroupSettings.bytes_eq (g : GroupSettings) :
    g.bytes = ((List.range 9).map fun k => wordBytes (BitVec.ofNat 32 (g.field k))).flatten := rfl

theorem Settings.bytes_eq (x : Settings) :
    x.bytes = ((List.range 8).map fun k => halfBytes (BitVec.ofInt 16 (x.value k))).flatten := rfl

theorem placeBytes_eq (x : Option (Nat × RecheckReason)) :
    placeBytes x =
      match x with
      | none => [0, 0xFF, 0xFF]
      | some (k, .confirm) => [byteOf k, 1, 0xFF]
      | some (k, .escalate cls) => [byteOf k, 2, byteOf cls.val]
      | some (k, .retry cls) => [byteOf k, 3, byteOf cls.val] := by
  rcases x with _ | ⟨k, _ | _ | _⟩ <;> rfl

/-- Settles O8: the decoder reads the encoder's bytes back, field by field, and each layout is written as R177 to R180 lay
it out. -/
theorem payloadsDecodeToTheirCommand : Obligations.PayloadsDecodeToTheirCommand := by
  refine ⟨fun i tag c hi hw => decodePayload_encodePayload (listCount_lt hi hw), ?_⟩
  dsimp only
  refine ⟨fun r q l f => ⟨?response, rfl, ?exported⟩, fun x => ?spanResult, fun sp k f => ?finding,
    fun n start reason plan extra missed => ?cycleEnd, fun e x at_ v => ?windowEdge,
    ⟨rfl, fun e cursor cycle => ?plan, fun g => ?group, fun p => rfl, fun g n => rfl, fun b g n => ?baseline,
      fun l n => rfl, fun p m => ⟨rfl, rfl⟩⟩,
    fun x => ?clock, fun e place n => ?condition, fun x => rfl, fun x => ?status⟩
  case response =>
    change envelope 2 r.tag (r.status.code :: r.code :: r.results.bytes) = _
    rw [r.status.code_eq]
    rfl
  case exported =>
    simp only [OutFrame.bytes, ExportFrame.payload, BankName.code_eq]
    rfl
  case spanResult =>
    simp only [Record.bytes, SpanResult.bytes, RecordReason.code_eq, ResultOutcome.code_eq, Condition.code_eq,
      orAbsent_eq, map_code_getD Cause.code_eq]
    rfl
  case finding =>
    simp only [Record.bytes, FindingKind.code_eq, FindingStatus.code_eq, orAbsent_eq]
    rfl
  case cycleEnd =>
    simp only [Record.bytes, CycleReason.code_eq]
    rfl
  case windowEdge =>
    simp only [Record.bytes, Edge.code_eq, EdgeCause.code_eq, Integrity.code_eq]
    rfl
  case plan =>
    simp only [Results.bytes, orAbsent_eq]
    rfl
  case group =>
    rfl
  case baseline =>
    have zones : b.zones.map Zone.bytes = b.zones.map fun z =>
        twoBytes z.endBin ++ twoBytes z.startLevel ++ twoBytes z.endLevel ++
          [codeFrom 0 [.splice, .connector, .fibreEnd] z.kind] :=
      List.map_congr_left fun z _ => by rw [Zone.bytes, EndKind.code_eq]
    simp only [Results.bytes, Baseline.bytes, Option.map_some, Option.getD_some, zones, List.append_assoc]
    rfl
  case clock =>
    simp only [Results.bytes, ClockReport.bytes, Integrity.code_eq, Reference.code_eq, WindowMode.code_eq,
      WindowState.code_eq]
    cases x.grace with
    | notClosing => rfl
    | remaining cause n =>
      simp only [GraceReport.bytes, map_code_getD EdgeCause.code_eq]
      rfl
    | expired cause =>
      simp only [GraceReport.bytes, map_code_getD EdgeCause.code_eq]
      rfl
  case condition =>
    simp only [Results.bytes, ConditionEntry.bytes, Condition.code_eq, map_code_getD AnalysisOutcome.code_eq, orAbsent_eq,
      placeBytes_eq]
    cases e.lead with
    | none => rfl
    | some l =>
      simp only [leadBytes, FindingKind.code_eq]
      rfl
  case status =>
    simp only [Results.bytes, StatusReport.bytes, BankReport.bytes, EngineState.code_eq, WindowState.code_eq,
      WindowMode.code_eq, Integrity.code_eq, BankState.code_eq, Gate.code_eq, ResetCause.code_eq, optSpanByte_eq]
    cases x.selector <;> rfl

end Sys2Proof.Machine

/-! Proofs of the statements about the bytes received on the shelf link: the framer byte by byte, a frame received whole,
and what a checked frame does. -/

namespace Sys2Proof.Machine

/-! ### One byte, by the framer's state (R166, R167) -/

section Bytes

variable {s : State} (b : Byte)

theorem State.takeByte_seek (h : s.link.framer = .seek) :
    s.takeByte b = if b = 0xC3 then s.setFramer .syncSeen else s := by
  simp [State.takeByte, h]

theorem State.takeByte_syncSeen (h : s.link.framer = .syncSeen) :
    s.takeByte b = if b = 0x3C then s.setFramer (.header []) else if b = 0xC3 then s else s.setFramer .seek := by
  simp [State.takeByte, h]

theorem State.takeByte_header {kept : List Byte} (h : s.link.framer = .header kept) (hk : kept.length < 3) :
    s.takeByte b = s.setFramer (.header (kept ++ [b])) := by
  match kept, hk with
  | [], _ | [_], _ | [_, _], _ => simp [State.takeByte, h]

theorem State.takeByte_lengthLow {kind tag high : Byte} (h : s.link.framer = .header [kind, tag, high]) :
    s.takeByte b = s.headerDone kind tag (halfOf high b) := by
  simp [State.takeByte, h]

theorem State.takeByte_payload {kind tag : Byte} {length : Half} {kept : List Byte}
    (h : s.link.framer = .payload kind tag length kept) :
    s.takeByte b = s.setFramer (if kept.length + 1 < length.toNat then .payload kind tag length (kept ++ [b])
      else .check kind tag length (kept ++ [b]) none) := by
  simp only [State.takeByte, h, State.payloadByte, List.length_append, List.length_singleton]
  by_cases hlt : kept.length + 1 < length.toNat
  · rw [if_neg (by omega), if_pos hlt]
  · rw [if_pos (by omega), if_neg hlt]

theorem State.takeByte_crcHigh {kind tag : Byte} {length : Half} {kept : List Byte}
    (h : s.link.framer = .check kind tag length kept none) :
    s.takeByte b = s.setFramer (.check kind tag length kept (some b)) := by
  simp [State.takeByte, h]

theorem State.takeByte_crcLow {kind tag high : Byte} {length : Half} {kept : List Byte}
    (h : s.link.framer = .check kind tag length kept (some high)) :
    s.takeByte b = s.checkDone kind tag length kept (halfOf high b) := by
  simp [State.takeByte, h]

end Bytes

/-- The second length byte of a frame that R167 refuses. -/
theorem State.headerDone_refused (s : State) {kind tag : Byte} {length : Half} (h : kind ≠ 1 ∨ 1024 < length.toNat) :
    s.headerDone kind tag length = (s.setFramer .seek).discarded := by
  have : (kind != 1 || decide (1024 < length.toNat)) = true := by simpa using h
  rw [State.headerDone, if_pos this]
  rfl

theorem State.headerDone_taken (s : State) (tag : Byte) {length : Half} (h : length.toNat ≤ 1024) :
    s.headerDone 1 tag length =
      s.setFramer (if length.toNat = 0 then .check 1 tag length [] none else .payload 1 tag length []) := by
  have : (((1 : Byte) != 1) || decide (1024 < length.toNat)) = false := by simpa using h
  rw [State.headerDone, this, if_neg Bool.false_ne_true]
  by_cases hz : length.toNat = 0
  · rw [if_pos hz, if_pos (BitVec.eq_of_toNat_eq hz)]
  · rw [if_neg hz, if_neg fun h0 => hz (by simp [h0])]

theorem State.checkDone_of_ne (s : State) {kind tag : Byte} {length crc : Half} {kept : List Byte}
    (h : crc ≠ frameCrc kind tag length kept) :
    s.checkDone kind tag length kept crc = (s.setFramer .seek).discarded := by
  rw [State.checkDone, if_neg h]
  rfl

theorem State.checkDone_of_eq (s : State) {kind tag : Byte} {length crc : Half} {kept : List Byte}
    (h : crc = frameCrc kind tag length kept) :
    s.checkDone kind tag length kept crc = (s.setFramer .seek).receiveFrame { tag := tag, payload := kept } := by
  rw [State.checkDone, if_pos h]

/-! ### A whole frame -/

theorem State.takeBytes_append (s : State) (l m : List Byte) : s.takeBytes (l ++ m) = (s.takeBytes l).takeBytes m := by
  induction l generalizing s with
  | nil => rfl
  | cons b rest ih => exact ih (s.takeByte b)

theorem State.setFramer_framer (s : State) (x : Framer) : (s.setFramer x).link.framer = x := rfl

theorem State.setFramer_setFramer (s : State) (x y : Framer) : (s.setFramer x).setFramer y = s.setFramer y := rfl

/-- A frame in SEEK stands as it does with the framer set to SEEK. -/
theorem State.setFramer_seek {s : State} (h : s.link.framer = .seek) : s.setFramer .seek = s := by
  rw [← h]
  rfl

/-- The payload bytes, kept to the last one (R166). -/
theorem State.takeBytes_payload (s : State) (kind tag : Byte) (length : Half) (kept l : List Byte) (hl : l ≠ [])
    (hlen : kept.length + l.length = length.toNat) :
    (s.setFramer (.payload kind tag length kept)).takeBytes l =
      s.setFramer (.check kind tag length (kept ++ l) none) := by
  induction l generalizing kept with
  | nil => exact absurd rfl hl
  | cons b rest ih =>
    rw [State.takeBytes, State.takeByte_payload b rfl, State.setFramer_setFramer]
    rw [List.length_cons] at hlen
    cases rest with
    | nil =>
      have hnil : kept.length + 1 = length.toNat := hlen
      rw [if_neg (by omega)]
      rfl
    | cons c rest =>
      rw [List.length_cons] at hlen
      rw [if_pos (by omega), ih (kept ++ [b]) (by simp) (by simp; omega), List.append_assoc, List.singleton_append]

/-- A frame of kind COMMAND from its sync bytes to its payload (R166). -/
theorem State.takeBytes_untilCheck {s : State} (hs : s.link.framer = .seek) (tag : Byte) {payload : List Byte}
    (hlen : payload.length ≤ 1024) :
    s.takeBytes ([0xC3, 0x3C, 1, tag] ++ halfBytes (BitVec.ofNat 16 payload.length) ++ payload) =
      s.setFramer (.check 1 tag (BitVec.ofNat 16 payload.length) payload none) := by
  generalize hn : (BitVec.ofNat 16 payload.length : Half) = length
  have hto : length.toNat = payload.length := by
    rw [← hn, BitVec.toNat_ofNat]
    omega
  have header : s.takeBytes ([0xC3, 0x3C, 1, tag] ++ halfBytes length) = s.headerDone 1 tag length := by
    have high := State.takeByte_header (s := s.setFramer (.header [1, tag])) (length.extractLsb' 8 8) rfl (by simp)
    have low := State.takeByte_lengthLow (s := s.setFramer (.header [1, tag, length.extractLsb' 8 8]))
      (length.extractLsb' 0 8) rfl
    have start : s.takeBytes [0xC3, 0x3C, 1, tag] = s.setFramer (.header [1, tag]) := by
      rw [State.takeBytes, State.takeByte_seek _ hs]
      rfl
    rw [State.takeBytes_append, start]
    change ((s.setFramer (.header [1, tag])).takeByte (length.extractLsb' 8 8)).takeByte (length.extractLsb' 0 8) = _
    rw [high]
    refine low.trans ?_
    rw [halfOf_halfBytes, State.headerDone_taken _ tag (by omega), State.headerDone_taken _ tag (by omega)]
    rfl
  rw [State.takeBytes_append, header, State.headerDone_taken _ tag (by omega)]
  by_cases hp : payload = []
  · rw [if_pos (by simp [hto, hp]), hp]
    rfl
  · rw [if_neg (by simp [hto, hp]), State.takeBytes_payload s 1 tag length [] payload hp (by simp [hto])]
    rfl

/-- A frame of kind COMMAND received whole from SEEK: its CRC is checked (R166). -/
theorem State.takeBytes_command {s : State} (hs : s.link.framer = .seek) (tag : Byte) {payload : List Byte}
    (hlen : payload.length ≤ 1024) (crc : Half) :
    s.takeBytes ([0xC3, 0x3C, 1, tag] ++ halfBytes (BitVec.ofNat 16 payload.length) ++ payload ++ halfBytes crc) =
      if crc = frameCrc 1 tag (BitVec.ofNat 16 payload.length) payload then
        s.receiveFrame { tag := tag, payload := payload }
      else s.discarded := by
  rw [State.takeBytes_append, State.takeBytes_untilCheck hs tag hlen]
  generalize (BitVec.ofNat 16 payload.length : Half) = length
  change ((s.setFramer (.check 1 tag length payload none)).takeByte (crc.extractLsb' 8 8)).takeByte
    (crc.extractLsb' 0 8) = _
  have high := State.takeByte_crcHigh (s := s.setFramer (.check 1 tag length payload none)) (crc.extractLsb' 8 8) rfl
  rw [high, State.setFramer_setFramer, State.takeByte_crcLow _ rfl, halfOf_halfBytes]
  split
  next h => rw [State.checkDone_of_eq _ h, State.setFramer_setFramer, State.setFramer_seek hs]
  next h => rw [State.checkDone_of_ne _ h, State.setFramer_setFramer, State.setFramer_seek hs]

/-! ### A checked frame -/

/-- The owner's state has the link of the state the command found, so the answer stands in it as R169 says. -/
theorem Answered.of_link {s d t : State} {next : Dispatcher} {r : Response} (h : Answered d t next r)
    (hl : d.link = s.link) : Answered s t next r := by
  unfold Answered at h ⊢
  rwa [hl] at h

/-- A frame taken by the dispatcher leaves what R169 decides, with the RESPONSE in the buffer. -/
theorem State.runFrame_decides (s : State) (f : CommandFrame) :
    ∃ (d : State) (next : Dispatcher) (r : Response),
      Decides s f d next r ∧ d.link = s.link ∧ s.runFrame f = d.answer next r := by
  have code : payloadCode f.payload = f.payload.headD 0 := by cases f.payload <;> rfl
  cases h : decodePayload f.payload with
  | command c =>
    refine ⟨(s.perform f.tag c).state, dispatcherAfter c,
      { tag := f.tag, status := (s.perform f.tag c).status, code := c.name.code, results := (s.perform f.tag c).results },
      ⟨fun c' hc => ?_, by simp [h], by simp [h]⟩, s.perform_link f.tag c, ?_⟩
    · cases h.symm.trans hc
      exact ⟨rfl, rfl, rfl⟩
    · simp only [State.runFrame, h]
      rfl
  | malformed =>
    refine ⟨s, .answering,
      { tag := f.tag, status := .malformed, code := f.payload.headD 0, results := .nothing },
      ⟨by simp [h], fun _ => ⟨rfl, rfl, rfl⟩, by simp [h]⟩, rfl, ?_⟩
    simp only [State.runFrame, h, code]
  | unknown =>
    refine ⟨s, .answering,
      { tag := f.tag, status := .unknownCommand, code := f.payload.headD 0, results := .nothing },
      ⟨by simp [h], by simp [h], fun _ => ⟨rfl, rfl, rfl⟩⟩, rfl, ?_⟩
    simp only [State.runFrame, h, code]

theorem State.receiveFrame_receives (s : State) (f : CommandFrame) : Receives s (s.receiveFrame f) f := by
  obtain ⟨waits, discarded⟩ := s.enqueue_eq f
  refine ⟨fun hfree => ?_, fun hbusy hq => ?_, fun hbusy hq => ?_⟩
  · obtain ⟨d, next, r, decides, link, hrun⟩ := s.runFrame_decides f
    obtain ⟨hlink, answered⟩ := d.answer_grant_answered next r
    refine ⟨d, next, r, decides, ?_⟩
    rw [State.receiveFrame, if_pos hfree, hrun]
    exact ⟨hlink, answered.of_link link⟩
  · rw [State.receiveFrame, if_neg (by simp [hbusy])]
    exact waits hq
  · rw [State.receiveFrame, if_neg (by simp [hbusy])]
    exact discarded hq

/-- Settles O10: the two CRC bytes of a frame are compared, and each byte is taken by the state that stands. -/
theorem frameWithWrongCrcIsDiscarded : Obligations.FrameWithWrongCrcIsDiscarded := by
  refine ⟨fun tag payload crc s hs hlen hcrc => ?_, fun bytes s => ⟨_, rfl⟩, fun s => rfl,
    fun b bytes s => ⟨_, rfl, rfl⟩, fun b s => ⟨fun h => ?_, fun h => ?_, fun kept h hk => ?_,
      fun kind tag high h => ⟨fun hbad => ?_, fun hkind hzero => ?_, fun hkind hpos hle => ?_⟩,
      fun kind tag length kept h => ?_, fun kind tag length kept h => ?_,
      fun kind tag length kept high h => ⟨fun hne => ?_, fun heq => ⟨_, rfl, ?_⟩⟩⟩⟩
  · exact congrArg Host.Outcome.next ((State.takeBytes_command hs tag hlen crc).trans (if_neg hcrc))
  · exact congrArg Host.Outcome.next (State.takeByte_seek b h)
  · exact congrArg Host.Outcome.next (State.takeByte_syncSeen b h)
  · exact congrArg Host.Outcome.next (State.takeByte_header b h hk)
  · exact congrArg Host.Outcome.next ((State.takeByte_lengthLow b h).trans (s.headerDone_refused hbad))
  · subst hkind
    exact congrArg Host.Outcome.next ((State.takeByte_lengthLow b h).trans
      ((s.headerDone_taken tag (by omega)).trans (congrArg s.setFramer (if_pos hzero))))
  · subst hkind
    exact congrArg Host.Outcome.next ((State.takeByte_lengthLow b h).trans
      ((s.headerDone_taken tag hle).trans (congrArg s.setFramer (if_neg (by omega)))))
  · exact congrArg Host.Outcome.next (State.takeByte_payload b h)
  · exact congrArg Host.Outcome.next (State.takeByte_crcHigh b h)
  · exact congrArg Host.Outcome.next ((State.takeByte_crcLow b h).trans (s.checkDone_of_ne hne))
  · change Receives _ (s.takeByte b) _
    rw [State.takeByte_crcLow b h, s.checkDone_of_eq heq]
    exact State.receiveFrame_receives _ _

/-- A well-formed command's frame does what the command's row does (R168, R169). -/
theorem State.receiveFrame_encodePayload (s : State) (tag : Byte) {c : LinkCommand} (h : listCount c < 256) :
    s.receiveFrame { tag := tag, payload := encodePayload c } = s.receive tag c := by
  have run : s.runFrame { tag := tag, payload := encodePayload c } = s.runCommand tag c := by
    simp only [State.runFrame, decodePayload_encodePayload h]
  rw [State.receiveFrame, State.receive, run]

/-- The payload of a well-formed shelf command fits a frame (R167). -/
theorem encodePayload_length {i : Instr} {tag : Byte} {c : LinkCommand} (hi : i.asLink = some (tag, c))
    (hw : i.wellFormed = true) : (encodePayload c).length ≤ 1024 := by
  cases i with
  | groupStage => exact (Laws.PayloadFits.groupStage _ _ _ _ _ hi hw).1
  | groupCommit => exact (Laws.PayloadFits.groupCommit _ _ _ _ hi hw).1
  | baselineLoad => exact (Laws.PayloadFits.baselineLoad _ _ _ _ _ _ _ _ _ hi hw).1
  | noticeAck => exact (Laws.PayloadFits.noticeAck _ _ _ _ hi hw).1
  | noticeMask => exact (Laws.PayloadFits.noticeMask _ _ _ _ hi hw).1
  | settingsWrite => exact (Laws.PayloadFits.settingsWrite _ _ _ _ hi hw).1
  | _ => cases hi <;> simp [encodePayload, LinkCommand.fieldBytes, halfBytes]

/-- Settles O9: the frame's CRC is its own, and the decoder reads the command back. -/
theorem frameBytesActAsTheirCommand : Obligations.FrameBytesActAsTheirCommand := by
  intro i tag c s hi hw hs
  dsimp only
  have acts : exec (.commandFrame (envelope 1 tag (encodePayload c))) s = exec i s := by
    rw [exec_shelf hi s, ← s.receiveFrame_encodePayload tag (listCount_lt hi hw)]
    exact congrArg Host.Outcome.next
      ((State.takeBytes_command hs tag (encodePayload_length hi hw) _).trans (if_pos rfl))
  obtain ⟨taken, waits, discarded⟩ := s.receiveFrame_receives { tag := tag, payload := encodePayload c }
  have received : exec (.commandFrame (envelope 1 tag (encodePayload c))) s =
      .next (s.receiveFrame { tag := tag, payload := encodePayload c }) := by
    rw [acts, exec_shelf hi s, s.receiveFrame_encodePayload tag (listCount_lt hi hw)]
  refine ⟨acts, fun hfree => ?_, fun hbusy hq => ?_, fun hbusy hq => ?_⟩
  · obtain ⟨d, next, r, ⟨decides, _, _⟩, link, answered⟩ := taken hfree
    obtain ⟨rfl, rfl, rfl⟩ := decides c (decodePayload_encodePayload (listCount_lt hi hw))
    exact ⟨_, received, link, answered⟩
  · exact received.trans (congrArg _ (waits hbusy hq))
  · exact received.trans (congrArg _ (discarded hbusy hq))

end Sys2Proof.Machine

/-! Proofs of the statements about the commands that write the plan and the groups: PLAN_WRITE with its cycle and its
re-check entry, and GROUP_COMMIT. -/

namespace Sys2Proof.Machine

/-! ### Operands -/

theorem portOf_eq_some {b : Byte} {x : SelPort} : portOf b = some x ↔ x.val = b.toNat :=
  belowOf_eq_some

theorem portOf_eq_none {b : Byte} : portOf b = none ↔ 240 ≤ b.toNat :=
  belowOf_eq_none

/-- A yes/no byte below 2 is read by whether it is 1 (R177). -/
theorem yesNo_of_le {b : Byte} (h : b.toNat ≤ 1) : yesNo b = some (b == 1) := by
  obtain rfl | rfl : b = 0 ∨ b = 1 := by bv_omega
  · rfl
  · rfl

theorem yesNo_eq_none {b : Byte} : yesNo b = none ↔ 2 ≤ b.toNat := by
  constructor
  · intro h
    by_contra hlt
    simp [yesNo_of_le (by omega : b.toNat ≤ 1)] at h
  · intro h
    have h0 : b ≠ 0 := by bv_omega
    have h1 : b ≠ 1 := by bv_omega
    rw [yesNo, if_neg h0, if_neg h1]

/-! ### PLAN_WRITE -/

theorem State.portTaken_iff {s : State} {sp : Span} {p : SelPort} :
    s.portTaken sp p = true ↔ ∃ j : Span, j ≠ sp ∧ (s.entry j).enabled = true ∧ (s.entry j).port = p := by
  simp [State.portTaken, and_assoc]

theorem State.planWrite_of_range (s : State) {span enabled port group : Byte}
    (h : 192 ≤ span.toNat ∨ 240 ≤ port.toNat ∨ 8 ≤ group.toNat ∨ 2 ≤ enabled.toNat) :
    s.planWrite span enabled port group = s.refuse .range := by
  unfold State.planWrite
  split
  next hspan hport hgroup henabled =>
    rw [← spanOf_eq_none, ← portOf_eq_none, ← groupOf_eq_none, ← yesNo_eq_none, hspan, hport, hgroup, henabled] at h
    simp at h
  next => rfl

section

variable {s : State} {span enabled port group : Byte} {sp : Span} {p : SelPort} {g : GroupNo}
  (hsp : sp.val = span.toNat) (hp : p.val = port.toNat) (hg : g.val = group.toNat) (hen : enabled.toNat ≤ 1)

include hsp hp hg hen

theorem State.planWrite_of_read :
    s.planWrite span enabled port group =
      if (enabled == 1) && s.portTaken sp p then s.refuse .conflict
      else ((s.setEntry sp { enabled := enabled == 1, port := p, group := g }).planWritten sp (s.entry sp).enabled).ok := by
  simp only [State.planWrite, spanOf_eq_some.2 hsp, portOf_eq_some.2 hp, groupOf_eq_some.2 hg, yesNo_of_le hen]

theorem State.planWrite_of_conflict (h1 : enabled = 1) (h : s.portTaken sp p = true) :
    s.planWrite span enabled port group = s.refuse .conflict := by
  rw [State.planWrite_of_read hsp hp hg hen, if_pos (by simp [h1, h])]

theorem State.planWrite_of_free (h : ¬(enabled = 1 ∧ s.portTaken sp p = true)) :
    s.planWrite span enabled port group =
      ((s.setEntry sp { enabled := enabled == 1, port := p, group := g }).planWritten sp (s.entry sp).enabled).ok := by
  rw [State.planWrite_of_read hsp hp hg hen, if_neg (by rwa [Bool.and_eq_true, beq_iff_eq])]

end

/-- A cycle starts with the write of the entry `sp` (R3). -/
def State.WriteStarts (s : State) (sp : Span) (was : Bool) : Prop :=
  (s.entry sp).enabled = true ∧ was = false ∧ s.window.state = .opened ∧ s.plan.active = none

theorem State.planWritten_of_starts {s : State} {sp : Span} {was : Bool} (h : s.WriteStarts sp was) :
    s.planWritten sp was = s.startCycle.choose := by
  obtain ⟨henabled, rfl, hopen, hnone⟩ := h
  simp [State.planWritten, henabled, hopen, hnone]

/-- Without a cycle to start, an enabled entry is followed by the choice alone (R3). -/
theorem State.planWritten_of_enabled {s : State} {sp : Span} {was : Bool} (he : (s.entry sp).enabled = true)
    (h : ¬s.WriteStarts sp was) : s.planWritten sp was = s.choose := by
  unfold State.planWritten
  rw [if_pos he, if_neg]
  intro hc
  simp only [Bool.and_eq_true, Bool.not_eq_true', beq_iff_eq, Option.isNone_iff_eq_none] at hc
  obtain ⟨⟨hwas, hopen⟩, hnone⟩ := hc
  exact h ⟨he, hwas, hopen, hnone⟩

/-- An entry that is disabled leaves the re-check queue (R3, R149). -/
theorem State.planWritten_of_disabled {s : State} {sp : Span} {was : Bool} (he : (s.entry sp).enabled = false) :
    s.planWritten sp was = (s.removeRecheck sp).choose := by
  simp [State.planWritten, he]

theorem State.anyEnabled_of_entry {s : State} {sp : Span} (h : (s.entry sp).enabled = true) : s.anyEnabled = true := by
  refine List.any_eq_true.2 ⟨s.entry sp, ?_, h⟩
  exact Vector.mem_toList_iff.2 (Vector.getElem_mem _)

theorem State.removeRecheck_conditions (s : State) (sp : Span) :
    (s.removeRecheck sp).conditions =
      { s.conditions with recheck := s.conditions.recheck.filter fun e => e.span != sp } := by
  simp only [← s.removeRecheck_recheck sp, ← s.removeRecheck_entries sp]

theorem State.removeRecheck_follows (s : State) (sp : Span) : EngineFollows s (s.removeRecheck sp) := by
  unfold State.removeRecheck
  split
  · exact .trans (.of_eq rfl) (State.choose_follows _)
  · exact .of_eq rfl

theorem State.startCycle_follows (s : State) : EngineFollows s s.startCycle := by
  obtain ⟨engine, inFlight, state⟩ := s.startCycle_engine
  exact ⟨inFlight, engine, state⟩

theorem State.planWritten_chosen (s : State) (sp : Span) (was : Bool) : Chosen s (s.planWritten sp was) := by
  unfold State.planWritten
  split
  · split
    · exact s.startCycle_follows.chosen
    · exact s.choose_chosen
  · exact (s.removeRecheck_follows sp).chosen

theorem State.planWritten_plan (s : State) (sp : Span) (was : Bool) :
    (s.WriteStarts sp was → (s.planWritten sp was).plan = s.plan.begun) ∧
      (¬s.WriteStarts sp was → (s.planWritten sp was).plan = s.plan) := by
  refine ⟨fun h => ?_, fun h => ?_⟩
  · have hany := State.anyEnabled_of_entry h.1
    rw [State.planWritten_of_starts h, (State.choose_frame _).1, State.startCycle_plan, if_pos hany]
  · cases he : (s.entry sp).enabled
    · simp [State.planWritten_of_disabled he]
    · simp [State.planWritten_of_enabled he h]

theorem State.planWritten_conditions (s : State) (sp : Span) (was : Bool) :
    (s.planWritten sp was).conditions =
      if (s.entry sp).enabled = true then s.conditions
      else { s.conditions with recheck := s.conditions.recheck.filter fun e => e.span != sp } := by
  cases he : (s.entry sp).enabled
  · simp [State.planWritten_of_disabled he, State.removeRecheck_conditions]
  · by_cases h : s.WriteStarts sp was
    · simp [State.planWritten_of_starts h]
    · simp [State.planWritten_of_enabled he h]

/-- Settles O11: the entry is written first, and what follows it is one of three: a cycle that starts, the choice, or the
removal from the re-check queue. -/
theorem planWriteWritesTheEntry : Obligations.PlanWriteWritesTheEntry := by
  intro tag span enabled port group s hs
  refine ⟨fun hr => refuses_of_perform rfl hs (s.planWrite_of_range hr), fun sp p g hsp hp hg hen => ⟨?_, fun hfree => ?_⟩⟩
  · rintro ⟨h1, hconflict⟩
    exact refuses_of_perform rfl hs (s.planWrite_of_conflict hsp hp hg hen h1 (State.portTaken_iff.2 hconflict))
  rw [← State.portTaken_iff] at hfree
  refine answersWith_of_perform rfl hs (s.planWrite_of_free hsp hp hg hen hfree) fun l => ?_
  generalize hu : s.setEntry sp { enabled := enabled == 1, port := p, group := g } = u
  have hentry : (u.entry sp).enabled = (enabled == 1) := by simp [← hu]
  have hstarts : (enabled = 1 ∧ (s.entry sp).enabled = false ∧ s.window.state = .opened ∧ s.plan.active = none) ↔
      u.WriteStarts sp (s.entry sp).enabled := by
    rw [State.WriteStarts, hentry, beq_iff_eq, ← hu]
    rfl
  obtain ⟨begun, kept⟩ := u.planWritten_plan sp (s.entry sp).enabled
  refine ⟨fun h => ?_, fun h => ?_, ?_, ?_, ?_⟩
  · refine (begun (hstarts.1 h)).trans ?_
    rw [← hu]
    rfl
  · refine (kept (mt hstarts.2 h)).trans ?_
    rw [← hu]
    rfl
  · refine (u.planWritten_conditions sp _).trans ?_
    simp only [hentry, beq_iff_eq]
    rw [← hu]
    simp only [State.setEntry_frame]
    split <;> rfl
  · have chosen := u.planWritten_chosen sp (s.entry sp).enabled
    rw [← hu] at chosen ⊢
    exact chosen
  · rw [← hu]
    apply State.ext_fields <;> simp

/-! ### GROUP_COMMIT -/

/-- The group numbers of the operands are all read, or none of them (R17). -/
theorem groupsOf_isSome {groups : List Byte} : (groupsOf groups).isSome = true ↔ ∀ b ∈ groups, b.toNat ≤ 7 := by
  induction groups with
  | nil => simp [groupsOf]
  | cons b rest ih =>
    rw [List.forall_mem_cons, ← ih]
    cases hb : groupOf b with
    | none =>
      have habove : ¬b.toNat ≤ 7 := by
        have := groupOf_eq_none.1 hb
        omega
      simp [groupsOf, hb, habove]
    | some g =>
      have hle : b.toNat ≤ 7 := by
        have := groupOf_eq_some.1 hb
        omega
      rw [groupsOf, hb]
      cases groupsOf rest <;> simp [hle]

theorem mem_of_groupsOf {groups : List Byte} {gs : List GroupNo} (h : groupsOf groups = some gs) (g : GroupNo) :
    g ∈ gs ↔ ∃ b ∈ groups, b.toNat = g.val := by
  induction groups generalizing gs with
  | nil =>
    obtain rfl : [] = gs := Option.some.inj h
    simp
  | cons b rest ih =>
    unfold groupsOf at h
    split at h
    next x xs hx hxs =>
      obtain rfl : x :: xs = gs := Option.some.inj h
      have hval := groupOf_eq_some.1 hx
      rw [List.mem_cons, ih hxs, List.exists_mem_cons_iff, ← hval, Fin.ext_iff, eq_comm]
    next => cases h

/-- A commit copies the pending set of every group named, however often, and of no other (R17). -/
theorem State.group_commitGroups (s : State) (gs : List GroupNo) (g : GroupNo) :
    (s.commitGroups gs).group g =
      if g ∈ gs then { s.group g with live := (s.group g).pending, staged := false } else s.group g := by
  induction gs generalizing s with
  | nil => simp [State.commitGroups]
  | cons x rest ih =>
    rw [State.commitGroups, ih]
    by_cases hx : g = x
    · subst hx
      simp
    · simp [State.group_setGroup_ne s hx, hx]

/-- The operands of GROUP_COMMIT that pass its checks (R17). -/
def State.CommitPasses (s : State) (groups : List Byte) : Prop :=
  1 ≤ groups.length ∧ groups.length ≤ 8 ∧ (∀ b ∈ groups, b.toNat ≤ 7) ∧
    ∀ g : GroupNo, (∃ b ∈ groups, b.toNat = g.val) → (s.group g).pending.baseClass ≤ (s.group g).pending.maxClass

theorem State.groupCommit_of_read (s : State) {groups : List Byte} {gs : List GroupNo} (h : groupsOf groups = some gs) :
    s.groupCommit groups =
      if within 1 8 groups.length && gs.all fun g => (s.group g).pending.ordered then (s.commitGroups gs).ok
      else s.refuse .range := by
  rw [State.groupCommit, h]

theorem State.commitChecks_iff (s : State) {groups : List Byte} {gs : List GroupNo} (h : groupsOf groups = some gs) :
    (within 1 8 groups.length && gs.all fun g => (s.group g).pending.ordered) = true ↔ s.CommitPasses groups := by
  have hread : ∀ b ∈ groups, b.toNat ≤ 7 := groupsOf_isSome.1 (by simp [h])
  simp only [Bool.and_eq_true, within_iff, List.all_eq_true, State.CommitPasses, mem_of_groupsOf h,
    GroupSettings.ordered, decide_eq_true_eq, and_assoc, iff_true_intro hread, true_and]

theorem State.groupCommit_of_range (s : State) {groups : List Byte} (h : ¬s.CommitPasses groups) :
    s.groupCommit groups = s.refuse .range := by
  cases hg : groupsOf groups with
  | none => rw [State.groupCommit, hg]
  | some gs => rw [s.groupCommit_of_read hg, if_neg (mt (s.commitChecks_iff hg).1 h)]

theorem State.groupCommit_of_passes (s : State) {groups : List Byte} (h : s.CommitPasses groups) :
    ∃ gs, groupsOf groups = some gs ∧ s.groupCommit groups = (s.commitGroups gs).ok := by
  have hread : (groupsOf groups).isSome = true := groupsOf_isSome.2 h.2.2.1
  obtain ⟨gs, hg⟩ := Option.isSome_iff_exists.1 hread
  exact ⟨gs, hg, by rw [s.groupCommit_of_read hg, if_pos ((s.commitChecks_iff hg).2 h)]⟩

theorem State.commitGroups_plan (s : State) (gs : List GroupNo) :
    (s.commitGroups gs).plan = { s.plan with groups := (s.commitGroups gs).plan.groups } := by
  induction gs generalizing s with
  | nil => rfl
  | cons g rest ih =>
    rw [State.commitGroups]
    exact ih _

/-- Settles O14: the checks are made over all groups named before the first copy, and the copies are independent. -/
theorem groupCommitCopiesThePendingSets : Obligations.GroupCommitCopiesThePendingSets := by
  intro tag groups s hs
  refine ⟨fun hr => refuses_of_perform rfl hs (s.groupCommit_of_range hr), fun hgood => ?_⟩
  obtain ⟨gs, hgs, hd⟩ := s.groupCommit_of_passes hgood
  refine answersWith_of_perform rfl hs hd fun l => ⟨fun g hg => ?_, fun g hg => ?_, ?_⟩
  · rw [State.group_withLink, State.group_commitGroups, if_pos ((mem_of_groupsOf hgs g).2 hg)]
  · rw [State.group_withLink, State.group_commitGroups, if_neg (mt (mem_of_groupsOf hgs g).1 hg)]
  · apply State.ext_fields
    case h1 => exact s.commitGroups_plan gs
    all_goals simp

end Sys2Proof.Machine

/-! Proofs of the statements about the clock and the window: the commands that set and read them, the second events, the
reference monitor and the grace timer. -/

namespace Sys2Proof.Machine

/-! ### Operands -/

theorem timeOf_of_range {day hour minute second : Byte}
    (h : 7 ≤ day.toNat ∨ 24 ≤ hour.toNat ∨ 60 ≤ minute.toNat ∨ 60 ≤ second.toNat) :
    timeOf day hour minute second = none := by
  unfold timeOf
  split
  next hd hh hm hx =>
    simp only [← belowOf_eq_none, hd, hh, hm, hx] at h
    simp at h
  next => rfl

theorem timeOf_of_val {day hour minute second : Byte} {x : TimeOfWeek} (hd : x.day.val = day.toNat)
    (hh : x.hour.val = hour.toNat) (hm : x.minute.val = minute.toNat) (hs : x.second.val = second.toNat) :
    timeOf day hour minute second = some x := by
  simp only [timeOf, belowOf_eq_some.2 hd, belowOf_eq_some.2 hh, belowOf_eq_some.2 hm, belowOf_eq_some.2 hs]

/-- The operands of WINDOW_SET that pass its checks (R26). -/
def ScheduleInRange (mask openHour openMinute closeHour closeMinute : Byte) : Prop :=
  openHour.toNat ≤ 23 ∧ openMinute.toNat ≤ 59 ∧ closeHour.toNat ≤ 23 ∧ closeMinute.toNat ≤ 59 ∧ mask.toNat < 128 ∧
    ¬(openHour = closeHour ∧ openMinute = closeMinute)

/-- Bit 7 of a mask marks a day above 6 (R26). -/
theorem mask_day7_iff (mask : Byte) : mask.getLsbD 7 = true ↔ 128 ≤ mask.toNat := by
  rw [← BitVec.msb_eq_getLsbD_last mask, BitVec.msb_eq_decide]
  simp

section

variable {mask openHour openMinute closeHour closeMinute : Byte}

/-- Two pairs of operands name the same time exactly when the times read from them are the same. -/
theorem sameTime_iff {oh ch : Fin 24} {om cm : Fin 60} (hoh : oh.val = openHour.toNat) (hom : om.val = openMinute.toNat)
    (hch : ch.val = closeHour.toNat) (hcm : cm.val = closeMinute.toNat) :
    (oh = ch ∧ om = cm) ↔ openHour = closeHour ∧ openMinute = closeMinute := by
  rw [Fin.ext_iff, Fin.ext_iff, hoh, hom, hch, hcm, BitVec.toNat_inj, BitVec.toNat_inj]

theorem scheduleOf_of_range (h : ¬ScheduleInRange mask openHour openMinute closeHour closeMinute) :
    scheduleOf mask openHour openMinute closeHour closeMinute = none := by
  unfold scheduleOf
  split
  next oh om ch cm hoh hom hch hcm =>
    rw [belowOf_eq_some] at hoh hom hch hcm
    have same := sameTime_iff hoh hom hch hcm
    rw [if_pos]
    rw [Bool.or_eq_true, mask_day7_iff, Bool.and_eq_true, beq_iff_eq, beq_iff_eq, same]
    by_contra hno
    rw [not_or, not_le] at hno
    obtain ⟨hmask, hdiff⟩ := hno
    exact h ⟨by omega, by omega, by omega, by omega, hmask, hdiff⟩
  next => rfl

theorem scheduleOf_of_val {x : Schedule} (h : ScheduleInRange mask openHour openMinute closeHour closeMinute)
    (hmask : x.dayMask = mask.setWidth 7) (hoh : x.openHour.val = openHour.toNat)
    (hom : x.openMinute.val = openMinute.toNat) (hch : x.closeHour.val = closeHour.toNat)
    (hcm : x.closeMinute.val = closeMinute.toNat) :
    scheduleOf mask openHour openMinute closeHour closeMinute = some x := by
  obtain ⟨-, -, -, -, hbelow, hdiff⟩ := h
  have hday : ¬mask.getLsbD 7 = true := by
    rw [mask_day7_iff]
    omega
  simp only [scheduleOf, belowOf_eq_some.2 hoh, belowOf_eq_some.2 hom, belowOf_eq_some.2 hch, belowOf_eq_some.2 hcm]
  rw [if_neg, ← hmask]
  rw [Bool.or_eq_true, Bool.and_eq_true, beq_iff_eq, beq_iff_eq, sameTime_iff hoh hom hch hcm]
  exact not_or.2 ⟨hday, hdiff⟩

end

/-! ### CLOCK_SET, WINDOW_SET and CLOCK_READ -/

theorem State.clockSet_of_range (s : State) {day hour minute second : Byte}
    (h : 7 ≤ day.toNat ∨ 24 ≤ hour.toNat ∨ 60 ≤ minute.toNat ∨ 60 ≤ second.toNat) :
    s.clockSet day hour minute second = s.refuse .range := by
  rw [State.clockSet, timeOf_of_range h]

section

variable (s : State) {day hour minute second : Byte} {x : TimeOfWeek}

theorem State.clockSet_of_lost (hx : timeOf day hour minute second = some x) (h : s.window.reference = .lost) :
    s.clockSet day hour minute second = s.refuse .busy := by
  simp only [State.clockSet, hx, h]

theorem State.clockSet_of_present (hx : timeOf day hour minute second = some x) (h : s.window.reference = .present) :
    s.clockSet day hour minute second =
      (s.withWindow { s.window with time := x, divider := 0, integrity := .valid }).ok := by
  simp only [State.clockSet, hx, h]

end

theorem State.windowSet_of_range (s : State) {mask openHour openMinute closeHour closeMinute : Byte}
    (h : ¬ScheduleInRange mask openHour openMinute closeHour closeMinute) :
    s.windowSet mask openHour openMinute closeHour closeMinute = s.refuse .range := by
  rw [State.windowSet, scheduleOf_of_range h]

/-- Settles O15: the operands are read first, and CLOCK_SET then turns on the reference alone. -/
theorem clockSetAndWindowSetWrite : Obligations.ClockSetAndWindowSetWrite := by
  refine ⟨fun tag day hour minute second s hs => ⟨fun hr => refuses_of_perform rfl hs (s.clockSet_of_range hr),
    fun x hd hh hm hx => ⟨fun hlost => ?_, fun hpresent => ?_⟩⟩,
    fun tag mask openHour openMinute closeHour closeMinute s hs =>
      ⟨fun hr => refuses_of_perform rfl hs (s.windowSet_of_range hr), fun x hgood hmask hoh hom hch hcm => ?_⟩⟩
  · exact refuses_of_perform rfl hs (s.clockSet_of_lost (timeOf_of_val hd hh hm hx) hlost)
  · exact answers_of_perform rfl hs (s.clockSet_of_present (timeOf_of_val hd hh hm hx) hpresent)
  · refine answers_of_perform rfl hs ?_
    change s.windowSet _ _ _ _ _ = _
    rw [State.windowSet, scheduleOf_of_val hgood hmask hoh hom hch hcm]
    rfl

/-- The seconds of grace that CLOCK_READ reports (R23, log 6). -/
theorem State.graceReport_cases (s : State) :
    (s.window.state ≠ .closing → s.graceReport = .notClosing) ∧
      (s.window.state = .closing → ∀ length, s.window.grace = .running length →
        ∃ n, n ≤ length ∧ s.graceReport = .remaining s.window.closeCause n) ∧
      (s.window.state = .closing → s.window.grace = .expired → s.graceReport = .expired s.window.closeCause) := by
  unfold State.graceReport
  refine ⟨fun h => ?_, fun h length hg => ?_, fun h hg => ?_⟩
  · cases hw : s.window.state with
    | closing => exact absurd hw h
    | _ => rfl
  · rw [h, hg]
    exact ⟨_, min_le_right _ _, rfl⟩
  · rw [h, hg]

/-- Settles O17: the report is made of one state, the grace report by its cases. -/
theorem clockReadAnswersTheClock : Obligations.ClockReadAnswersTheClock := by
  intro tag s hs
  obtain ⟨notClosing, running, expired⟩ := s.graceReport_cases
  exact ⟨s.graceReport, notClosing, running, expired, answers_of_perform rfl hs rfl⟩

/-! ### WINDOW_MODE -/

/-- An OPEN window is left alone by an opening (R29). -/
theorem State.openWindow_of_opened {s : State} (h : s.window.state = .opened) (cause : EdgeCause) :
    s.openWindow cause = s := by
  simp [State.openWindow, h]

/-- A window that is not OPEN cannot leave OPEN (R30). -/
theorem State.leaveOpen_of_not_opened {s : State} (h : s.window.state ≠ .opened) (cause : EdgeCause) :
    s.leaveOpen cause = s := by
  simp [State.leaveOpen, h]

theorem windowModeOf_of_range {mode : Byte} (h : 3 ≤ mode.toNat) : windowModeOf mode = none := by
  have h0 : mode ≠ 0 := by bv_omega
  have h1 : mode ≠ 1 := by bv_omega
  have h2 : mode ≠ 2 := by bv_omega
  rw [windowModeOf, if_neg h0, if_neg h1, if_neg h2]

theorem State.setWindowMode_of_range (s : State) {mode : Byte} (h : 3 ≤ mode.toNat) :
    s.setWindowMode mode = s.refuse .range := by
  rw [State.setWindowMode, windowModeOf_of_range h]

/-- Settles O18: the three modes are read first; FORCED_OPEN opens a window that is not OPEN, as R29 says. -/
theorem windowModeOpensTheWindow : Obligations.WindowModeOpensTheWindow := by
  intro tag mode s hs
  refine ⟨fun hr => refuses_of_perform rfl hs (s.setWindowMode_of_range hr), ?_, ?_, ?_⟩
  · rintro rfl
    exact answers_of_perform rfl hs rfl
  · rintro rfl hopen
    have hd : (s.setWindowMode 1) = (s.withWindow { s.window with mode := .forcedOpen }).ok :=
      congrArg State.ok (State.openWindow_of_opened (s := s.withWindow { s.window with mode := .forcedOpen }) hopen .forced)
    exact answers_of_perform rfl hs hd
  · rintro rfl hnot
    exact ⟨_, State.openWindow_opens (s := s.withWindow { s.window with mode := .forcedOpen }) hnot .forced,
      answers_of_perform rfl hs rfl⟩

/-- Settles O19: FORCED_CLOSED leaves an OPEN window as R30 says, and any other alone. -/
theorem windowModeClosesTheWindow : Obligations.WindowModeClosesTheWindow := by
  intro tag s hs
  refine ⟨fun hnot => ?_, fun hopen => ?_⟩
  · have hd : (s.setWindowMode 2) = (s.withWindow { s.window with mode := .forcedClosed }).ok :=
      congrArg State.ok
        (State.leaveOpen_of_not_opened (s := s.withWindow { s.window with mode := .forcedClosed }) hnot .forced)
    exact answers_of_perform rfl hs hd
  · exact ⟨_, State.leaveOpen_leaves (s := s.withWindow { s.window with mode := .forcedClosed }) hopen .forced,
      answers_of_perform rfl hs rfl⟩

/-! ### The time of week -/

theorem TimeOfWeek.ofSeconds_seconds (n : Nat) : (TimeOfWeek.ofSeconds n).seconds = n % 604800 := by
  simp only [TimeOfWeek.seconds, TimeOfWeek.ofSeconds, Fin.val_ofNat]
  omega

/-! ### Matches at a minute boundary -/

/-- Matches are evaluated (R27). -/
def Window.Hears (w : Window) : Prop :=
  w.integrity = .valid ∧ w.mode = .schedule

section

variable {s : State} (cause : EdgeCause)

theorem State.evaluateMatches_of_hears (h : s.window.Hears) :
    s.evaluateMatches cause =
      if s.window.opens then s.openWindow cause else if s.window.closes then s.leaveOpen cause else s := by
  obtain ⟨hvalid, hmode⟩ := h
  simp [State.evaluateMatches, hvalid, hmode]

theorem State.evaluateMatches_of_not_hears (h : ¬s.window.Hears) : s.evaluateMatches cause = s := by
  unfold State.evaluateMatches
  rw [if_neg]
  rwa [Bool.and_eq_true, beq_iff_eq, beq_iff_eq]

theorem State.evaluateMatches_of_opens (h : s.window.Hears) (ho : s.window.opens = true) :
    s.evaluateMatches cause = s.openWindow cause := by
  rw [State.evaluateMatches_of_hears cause h, if_pos ho]

theorem State.evaluateMatches_of_closes (h : s.window.Hears) (ho : s.window.opens = false)
    (hc : s.window.closes = true) : s.evaluateMatches cause = s.leaveOpen cause := by
  rw [State.evaluateMatches_of_hears cause h, if_neg (by simp [ho]), if_pos hc]

theorem State.evaluateMatches_of_no_match (ho : s.window.opens = false) (hc : s.window.closes = false) :
    s.evaluateMatches cause = s := by
  by_cases h : s.window.Hears
  · rw [State.evaluateMatches_of_hears cause h, if_neg (by simp [ho]), if_neg (by simp [hc])]
  · exact State.evaluateMatches_of_not_hears cause h

/-- A close match does nothing to a window that is not OPEN (R27, R30). -/
theorem State.evaluateMatches_of_not_opened (ho : s.window.opens = false) (h : s.window.state ≠ .opened) :
    s.evaluateMatches cause = s := by
  cases hc : s.window.closes with
  | false => exact State.evaluateMatches_of_no_match cause ho hc
  | true =>
    by_cases hh : s.window.Hears
    · rw [State.evaluateMatches_of_closes cause hh ho hc, State.leaveOpen_of_not_opened h]
    · exact State.evaluateMatches_of_not_hears cause hh

end

/-! ### The second events and the reference monitor -/

/-- The state one second later (R19). -/
def State.ticked (s : State) : State :=
  { s with window := { s.window with time := s.window.time.next, divider := 0 } }

theorem State.secondPasses_eq (s : State) :
    s.secondPasses = if s.window.time.next.second = 0 then s.ticked.evaluateMatches .matched else s.ticked :=
  rfl

/-- A second away from a minute boundary, or without a match to evaluate, moves the time alone (R19, R27). -/
theorem State.secondPasses_of_quiet {s : State}
    (h : s.window.time.next.second ≠ 0 ∨ s.window.integrity = .invalid ∨ s.window.mode ≠ .schedule ∨
      (s.ticked.window.opens = false ∧ s.ticked.window.closes = false)) : s.secondPasses = s.ticked := by
  rw [State.secondPasses_eq]
  split
  next hzero =>
    rcases h with h | h | h | ⟨ho, hc⟩
    · exact absurd hzero h
    · exact State.evaluateMatches_of_not_hears _ fun heard => by
        cases h.symm.trans heard.1
    · exact State.evaluateMatches_of_not_hears _ fun heard => h heard.2
    · exact State.evaluateMatches_of_no_match _ ho hc
  next => rfl

theorem State.secondPasses_of_boundary {s : State} (h : s.window.time.next.second = 0) :
    s.secondPasses = s.ticked.evaluateMatches .matched := by
  rw [State.secondPasses_eq, if_pos h]

theorem State.referenceLost_of_lost {s : State} (h : s.window.reference = .lost) : s.referenceLost = s := by
  simp [State.referenceLost, h]

/-- The state whose reference has been lost, before the window hears of it (R20). -/
def State.unclocked (s : State) : State :=
  { s with
    window := { s.window with reference := .lost, integrity := .invalid }, notices := s.notices.raised .clockLost }

theorem State.referenceLost_of_present {s : State} (h : s.window.reference = .present) :
    s.referenceLost = if s.window.mode = .schedule then s.unclocked.leaveOpen .clockLost else s.unclocked := by
  simp only [State.referenceLost, h, beq_iff_eq]
  rfl

theorem State.secondEvent_of_lost {s : State} (h : s.window.reference = .lost) : s.secondEvent = s := by
  simp [State.secondEvent, h]

/-- Settles O20: each event by the reference, then by the matches of the minute boundary or the window's state. -/
theorem clockEventsMoveTheClock : Obligations.ClockEventsMoveTheClock := by
  intro s
  have second : ∀ {t : State}, s.secondEvent = t → exec .secondEvent s = .next t.grant := fun h =>
    congrArg (fun u : State => Host.Outcome.next u.grant) h
  have lost : ∀ {t : State}, s.referenceLost = t → exec .referenceLost s = .next t.grant := fun h =>
    congrArg (fun u : State => Host.Outcome.next u.grant) h
  refine ⟨⟨TimeOfWeek.ofSeconds_seconds _, fun h => ?_, fun h hq => ?_, fun ⟨hp, hz, hi, hm⟩ ho hw => ?_,
    fun ⟨hp, hz, hi, hm⟩ ho hw => ?_, fun ⟨hp, hz, hi, hm⟩ ho hc hw => ?_, fun ⟨hp, hz, hi, hm⟩ ho hw => ?_⟩,
    ⟨fun h => ?_, fun h hq => ?_, fun h hm hw => ?_⟩, rfl⟩
  · exact second (State.secondEvent_of_lost h)
  · exact second ((State.secondEvent_of_present h).trans (State.secondPasses_of_quiet hq))
  · refine second ((State.secondEvent_of_present hp).trans ((State.secondPasses_of_boundary hz).trans ?_))
    exact (State.evaluateMatches_of_opens _ (s := s.ticked) ⟨hi, hm⟩ ho).trans (State.openWindow_of_opened (s := s.ticked) hw _)
  · refine ⟨_, second ((State.secondEvent_of_present hp).trans ((State.secondPasses_of_boundary hz).trans ?_)),
      State.openWindow_opens (s := s.ticked) hw .matched⟩
    exact State.evaluateMatches_of_opens _ (s := s.ticked) ⟨hi, hm⟩ ho
  · refine ⟨_, second ((State.secondEvent_of_present hp).trans ((State.secondPasses_of_boundary hz).trans ?_)),
      State.leaveOpen_leaves (s := s.ticked) hw .matched⟩
    exact State.evaluateMatches_of_closes _ (s := s.ticked) ⟨hi, hm⟩ ho hc
  · refine second ((State.secondEvent_of_present hp).trans ((State.secondPasses_of_boundary hz).trans ?_))
    exact State.evaluateMatches_of_not_opened _ (s := s.ticked) ho hw
  · exact lost (State.referenceLost_of_lost h)
  · refine lost ((State.referenceLost_of_present h).trans ?_)
    split
    next hm =>
      have hw : s.window.state ≠ .opened := hq.resolve_left fun hno => hno hm
      exact State.leaveOpen_of_not_opened (s := s.unclocked) hw .clockLost
    next => rfl
  · refine ⟨_, lost ((State.referenceLost_of_present h).trans (if_pos hm)),
      State.leaveOpen_leaves (s := s.unclocked) hw .clockLost⟩

/-! ### The grace timer -/

theorem State.graceExpires_of_stopped {s : State}
    (h : s.window.state ≠ .closing ∨ ∀ n, s.window.grace ≠ .running n) : s.graceExpires = s := by
  unfold State.graceExpires
  split
  next n hstate hgrace =>
    rcases h with h | h
    · exact absurd hstate h
    · exact absurd hgrace (h n)
  next => rfl

theorem State.graceExpires_of_running {s : State} {n : Nat} (h : s.window.state = .closing)
    (hg : s.window.grace = .running n) :
    s.graceExpires =
      if s.sweepInFlight then (s.withWindow { s.window with grace := .expired }).cut else s.enterClosed := by
  simp only [State.graceExpires, h, hg, State.graceEnds]

/-- Settles O21: a running timer turns on the sweep in flight, the port on its accumulation list. -/
theorem graceExpiryCutsOrCloses : Obligations.GraceExpiryCutsOrCloses := by
  refine ⟨fun s => ?_, fun p => ⟨p.discardSweep_nil, fun head rest h => p.discardSweep_cons h⟩⟩
  have expiry : ∀ {t : State}, s.graceExpires = t → exec .graceTimerExpiry s = .next t.grant := fun h =>
    congrArg (fun u : State => Host.Outcome.next u.grant) h
  refine ⟨fun h => expiry (State.graceExpires_of_stopped h), fun n hw hg => ?_⟩
  have running := State.graceExpires_of_running hw hg
  obtain ⟨cuts, stays⟩ := (s.withWindow { s.window with grace := .expired }).cut_eq
  refine ⟨fun c hf hc hstop => ?_, fun c hf hc hstop => ?_, fun hf => ?_⟩
  · exact expiry (running.trans ((if_pos hf).trans (cuts c hc hstop)))
  · refine expiry (running.trans ((if_pos hf).trans (stays fun d hd => ?_)))
    cases hc.symm.trans hd
    exact hstop
  · obtain ⟨window, reports, gain⟩ := s.enterClosed_closed
    refine ⟨_, expiry (running.trans (if_neg (by simp [hf]))), window, reports, gain, ?_⟩
    apply State.ext_fields <;> simp

end Sys2Proof.Machine

/-! Proof of the statement about CLOCK_STEP: the time it moves to, the boundaries it replays, and what a replay leaves
alone. -/

namespace Sys2Proof.Machine

/-! ### What a replay leaves of the window, the plan and the conditions -/

/-- Of the window the time, the state, the grace and the close cause may have changed, of the plan the cycles, and of the
conditions the queue. -/
def Replays (s t : State) : Prop :=
  t.window =
      { s.window with
        time := t.window.time, state := t.window.state, grace := t.window.grace, closeCause := t.window.closeCause } ∧
    t.plan = { s.plan with active := t.plan.active, ending := t.plan.ending, lastNumber := t.plan.lastNumber } ∧
    t.conditions.entries = s.conditions.entries

theorem Replays.refl (s : State) : Replays s s :=
  ⟨rfl, rfl, rfl⟩

theorem Replays.trans {s t u : State} (h : Replays s t) (h' : Replays t u) : Replays s u := by
  obtain ⟨window, plan, entries⟩ := h
  obtain ⟨window', plan', entries'⟩ := h'
  refine ⟨?_, ?_, entries'.trans entries⟩
  · rw [window', window]
  · rw [plan', plan]

theorem State.setTime_replays (s : State) (x : TimeOfWeek) : Replays s (s.setTime x) :=
  ⟨rfl, rfl, rfl⟩

theorem Opens.replays {s t : State} {cause : EdgeCause} (h : Opens s t cause) : Replays s t := by
  obtain ⟨window, plan, -, -, -, rest⟩ := h
  refine ⟨by rw [window], ?_, by rw [rest]⟩
  rw [plan]
  split <;> rfl

theorem Leaves.replays {s t : State} {cause : EdgeCause} (h : Leaves s t cause) : Replays s t := by
  obtain ⟨plan, closed, closing, -, -, -, -, rest⟩ := h
  refine ⟨?_, by rw [plan], by rw [rest]⟩
  cases hf : s.sweepInFlight with
  | false => rw [closed hf]
  | true => rw [closing hf]

/-- The end of a sweep is counted in the ACTIVE cycle or in an ENDING one (R12). -/
theorem EndCounted.plan_eq {p q : Plan} {cycle : Option Nat} {as : CountedAs} {ends : List Record}
    (h : EndCounted p q cycle as ends) :
    q = { p with active := q.active, ending := q.ending, lastNumber := q.lastNumber } := by
  obtain ⟨uncounted, counted⟩ := h
  cases cycle with
  | none => rw [(uncounted rfl).1]
  | some k =>
    obtain ⟨inActive, inEnding⟩ := counted k rfl
    by_cases ha : ∃ a, p.active = some a ∧ a.number = k
    · obtain ⟨a, ha, hk⟩ := ha
      rw [(inActive a ha hk).1]
    · obtain ⟨missing, found⟩ := inEnding fun a h hk => ha ⟨a, h, hk⟩
      rcases endings_split k p.ending with hnone | ⟨before, e, after, hsplit, he, hbefore⟩
      · rw [(missing hnone).1]
      · obtain ⟨last, more⟩ := found before e after hsplit he hbefore
        by_cases hleft : (e.cycle.ended as).planStarted + (e.cycle.ended as).extraStarted -
            ((e.cycle.ended as).planEnded + (e.cycle.ended as).extraEnded) = 0
        · rw [(last hleft).1]
        · rw [(more hleft).1]

theorem Closes.replays {s t : State} {n : BankName} {c : SweepContext} {o : EngineOutcome} (h : Closes s t n c o) :
    Replays s t := by
  obtain ⟨ends, full, expired, counted, -, -, -, -, -, -, -, entries, -, -, -, -, -, -, window, -⟩ := h
  refine ⟨?_, counted.plan_eq, entries⟩
  rw [window]
  split <;> rfl

/-- CLOSING_ACTIONS does nothing, or closes the sweep it finds decided (R53, R55). -/
theorem State.closingActions_cases (s : State) :
    s.closingActions = s ∨ ∃ n c o, s.closingActions = s.closeSweep n c o := by
  unfold State.closingActions
  split
  next n o c _ _ _ _ =>
    split
    · exact .inr ⟨n, c, o, rfl⟩
    · exact .inl rfl
  next => exact .inl rfl

theorem State.closingActions_replays (s : State) : Replays s s.closingActions := by
  rcases s.closingActions_cases with h | ⟨n, c, o, h⟩
  · rw [h]
    exact .refl s
  · rw [h]
    exact (s.closeSweep_closes n c o).replays

theorem State.evaluateMatches_replays (s : State) (cause : EdgeCause) : Replays s (s.evaluateMatches cause) := by
  have opening : Replays s (s.openWindow cause) := by
    by_cases h : s.window.state = .opened
    · rw [State.openWindow_of_opened h]
      exact .refl s
    · exact (State.openWindow_opens h cause).replays
  have leaving : Replays s (s.leaveOpen cause) := by
    by_cases h : s.window.state = .opened
    · exact (State.leaveOpen_leaves h cause).replays
    · rw [State.leaveOpen_of_not_opened h]
      exact .refl s
  by_cases heard : s.window.Hears
  · rw [State.evaluateMatches_of_hears cause heard]
    split
    · exact opening
    · split
      · exact leaving
      · exact .refl s
  · rw [State.evaluateMatches_of_not_hears cause heard]
    exact .refl s

theorem State.replayBoundary_replays (s : State) (x : TimeOfWeek) : Replays s (s.replayBoundary x) := by
  have matched := (s.setTime_replays x).trans ((s.setTime x).evaluateMatches_replays .stepped)
  unfold State.replayBoundary State.closeDecided
  split
  · exact matched
  · exact matched.trans (State.closingActions_replays _)

theorem State.replay_replays (s : State) (n m : Nat) : Replays s (s.replay n m) := by
  induction n generalizing s m with
  | zero => exact .refl s
  | succ n ih => exact (s.replayBoundary_replays _).trans (ih _ _)

theorem State.stepForward_replays (s : State) (k : Nat) : Replays s (s.stepForward k) :=
  (s.replay_replays _ _).trans (State.setTime_replays _ _)

/-! ### The boundaries one by one -/

/-- The last boundary of a replay comes after all the others (R25). -/
theorem State.replay_succ (s : State) (n m : Nat) :
    s.replay (n + 1) m = (s.replay n m).replayBoundary (.ofSeconds (60 * (m + n))) := by
  induction n generalizing s m with
  | zero => rw [Nat.mul_comm]; rfl
  | succ n ih =>
    rw [State.replay, ih, State.replay]
    congr 2
    omega

/-- At the minute `m` of the week there is nothing to replay (R25, R27). -/
def Window.QuietAt (w : Window) (m : Nat) : Prop :=
  w.mode = .schedule →
    ({ w with time := .ofSeconds (60 * m) } : Window).opens = false ∧
      ({ w with time := .ofSeconds (60 * m) } : Window).closes = false

theorem State.replayBoundary_of_quiet {s : State} {m : Nat} (h : s.window.QuietAt m) :
    s.replayBoundary (.ofSeconds (60 * m)) = s.setTime (.ofSeconds (60 * m)) := by
  obtain ⟨unmatched, -⟩ := s.replayBoundary_replayed (.ofSeconds (60 * m))
  refine unmatched (fun ⟨⟨_, hm⟩, ho, _⟩ => ?_) fun ⟨⟨_, hm⟩, _, hc, _⟩ => ?_
  · exact absurd ((h hm).1.symm.trans ho) Bool.false_ne_true
  · exact absurd ((h hm).2.symm.trans hc) Bool.false_ne_true

/-- A replay over quiet boundaries moves the time alone (R25). -/
theorem State.replay_of_quiet {s : State} {n m : Nat} (h : ∀ j, j < n → s.window.QuietAt (m + j)) :
    ∃ x, s.replay n m = s.setTime x := by
  induction n with
  | zero => exact ⟨s.window.time, rfl⟩
  | succ n ih =>
    obtain ⟨x, hx⟩ := ih fun j hj => h j (by omega)
    have quiet : (s.setTime x).window.QuietAt (m + n) := h n (by omega)
    exact ⟨_, by rw [State.replay_succ, hx, State.replayBoundary_of_quiet quiet]; rfl⟩

theorem State.stepForward_of_quiet {s : State} {k : Nat}
    (h : ∀ m, s.window.time.seconds < 60 * m → 60 * m ≤ s.window.time.seconds + k → s.window.QuietAt m) :
    s.stepForward k = s.setTime (.ofSeconds (s.window.time.seconds + k)) := by
  obtain ⟨x, hx⟩ := State.replay_of_quiet (s := s) (n := (s.window.time.seconds + k) / 60 - s.window.time.seconds / 60)
    (m := s.window.time.seconds / 60 + 1) fun j hj => h _ (by omega) (by omega)
  rw [State.stepForward, hx]
  rfl

/-! ### CLOCK_STEP -/

section

variable {s : State} {seconds : Half}

theorem State.clockStep_of_range (h : ¬(-3600 ≤ seconds.toInt ∧ seconds.toInt ≤ 3600)) :
    s.clockStep seconds = s.refuse .range := by
  rw [State.clockStep, if_pos (by omega)]

theorem State.clockStep_of_invalid (h : -3600 ≤ seconds.toInt ∧ seconds.toInt ≤ 3600)
    (hi : s.window.integrity = .invalid) : s.clockStep seconds = s.refuse .clockInvalid := by
  rw [State.clockStep, if_neg (by omega), if_pos (by simp [hi])]

/-- The state that an accepted step leaves (R24). -/
def State.stepped (s : State) (step : Int) : State :=
  if 0 ≤ step then s.stepForward step.toNat else s.stepBack (-step).toNat

theorem State.clockStep_of_valid (h : -3600 ≤ seconds.toInt ∧ seconds.toInt ≤ 3600)
    (hv : s.window.integrity = .valid) : s.clockStep seconds = (s.stepped seconds.toInt).ok := by
  rw [State.clockStep, if_neg (by omega), if_neg (by simp [hv]), State.stepped]
  split <;> rfl

end

theorem State.stepped_time (s : State) {step : Int} (h : -3600 ≤ step ∧ step ≤ 3600) :
    ((s.stepped step).window.time.seconds : Int) = (s.window.time.seconds + step) % 604800 := by
  unfold State.stepped
  split
  · have time : (s.stepForward step.toNat).window.time = .ofSeconds (s.window.time.seconds + step.toNat) := rfl
    rw [time, TimeOfWeek.ofSeconds_seconds]
    omega
  · have time : (s.stepBack (-step).toNat).window.time =
        .ofSeconds (s.window.time.seconds + 604800 - (-step).toNat) := rfl
    rw [time, TimeOfWeek.ofSeconds_seconds]
    omega

theorem State.stepped_replays (s : State) (step : Int) : Replays s (s.stepped step) := by
  unfold State.stepped
  split
  · exact s.stepForward_replays _
  · exact s.setTime_replays _

theorem State.stepped_of_quiet {s : State} {step : Int}
    (h : ∀ m : Nat, s.window.time.seconds < 60 * m → (60 * m : Int) ≤ s.window.time.seconds + step →
      s.window.QuietAt m) : ∃ x, s.stepped step = s.setTime x := by
  unfold State.stepped
  split
  · exact ⟨_, State.stepForward_of_quiet fun m hm hle => h m hm (by omega)⟩
  · exact ⟨_, rfl⟩

@[simp] theorem State.stepped_frame (s : State) (step : Int) :
    (s.stepped step).baselines = s.baselines ∧ (s.stepped step).analyser = s.analyser ∧
      (s.stepped step).outputs = s.outputs ∧ (s.stepped step).pending = s.pending := by
  unfold State.stepped
  split <;> simp

/-- Settles O16: the time by arithmetic round the week; the boundaries by recursion on their number, each of which is
replayed, and changes nothing when it is quiet. -/
theorem clockStepMovesTheTime : Obligations.ClockStepMovesTheTime := by
  intro tag seconds s hs
  refine ⟨fun hr => refuses_of_perform rfl hs (State.clockStep_of_range hr),
    fun hb hi => refuses_of_perform rfl hs (State.clockStep_of_invalid hb hi), fun hb hv => ?_⟩
  refine answersWith_of_perform rfl hs (State.clockStep_of_valid hb hv) fun l => ?_
  obtain ⟨window, plan, entries⟩ := s.stepped_replays seconds.toInt
  refine ⟨s.stepped_time hb, fun hq => ?_, fun hpos => ?_, window, plan, entries, ?_⟩
  · obtain ⟨x, hx⟩ := State.stepped_of_quiet (s := s) (step := seconds.toInt) fun m hm hle => by
      rcases hq with hq | hq | hq
      · omega
      · exact fun hmode => absurd hmode hq
      · exact fun _ => hq m hm hle
    rw [hx]
    rfl
  · refine ⟨fun j => s.replay j (s.window.time.seconds / 60 + 1), rfl, fun j _ => ?_, ?_⟩
    · dsimp only
      rw [State.replay_succ]
      exact State.replayBoundary_replayed _ _
    · have forward : s.stepped seconds.toInt = s.stepForward seconds.toInt.toNat := if_pos hpos
      rw [forward]
      rfl
  · apply State.ext_fields <;> simp

end Sys2Proof.Machine

/-! Proofs of the statements about the trace banks: retention, TRACE_EXPORT, reanalysis, release and the hold timer. -/

namespace Sys2Proof.Machine

/-! ### RETAIN_REQUEST -/

theorem State.retainRequest_of_range (s : State) {span : Byte} (h : 192 ≤ span.toNat) :
    s.retainRequest span = s.refuse .range := by
  simp [State.retainRequest, spanOf_eq_none.2 h]

section

variable {s : State} {span : Byte} {sp : Span} (hsp : sp.val = span.toNat)

include hsp

theorem State.retainRequest_of_busy (h : s.heldBank.isSome = true ∨ s.banks.retainSlot.isSome = true) :
    s.retainRequest span = s.refuse .busy := by
  simp only [State.retainRequest, spanOf_eq_some.2 hsp]
  rcases h with h | h
  · rw [if_pos h]
  · rw [if_pos h, ite_self]

theorem State.retainRequest_of_empty (h : s.heldBank = none) (hr : s.banks.retainSlot = none) :
    s.retainRequest span = (s.withBanks { s.banks with retainSlot := some sp }).ok := by
  simp [State.retainRequest, spanOf_eq_some.2 hsp, h, hr]

end

/-- Settles O24: the span number is read first, then the held bank and the slot are asked for. -/
theorem retainRequestFillsTheSlot : Obligations.RetainRequestFillsTheSlot := by
  intro tag span s hs
  refine ⟨fun hr => refuses_of_perform rfl hs (s.retainRequest_of_range hr), fun sp hsp => ⟨fun hbusy => ?_, fun hh hr => ?_⟩⟩
  · exact refuses_of_perform rfl hs (State.retainRequest_of_busy hsp hbusy)
  · exact answers_of_perform rfl hs (State.retainRequest_of_empty hsp hh hr)

/-! ### TRACE_EXPORT -/

/-- A bank is HELD and no reanalysis of it waits or runs. -/
def Bank.AtRest (b : Bank) : Prop :=
  b.state = .held ∧ b.reanalysis = .idle

theorem Bank.atRest_iff {b : Bank} : (b.state == .held && b.reanalysis == .idle) = true ↔ b.AtRest := by
  rw [Bool.and_eq_true, beq_iff_eq, beq_iff_eq, Bank.AtRest]

/-- The operands of TRACE_EXPORT that pass the range check (R88). -/
def ExportInRange (start count : Half) : Prop :=
  start.toNat ≤ 16383 ∧ 1 ≤ count.toNat ∧ count.toNat ≤ 16384

theorem exportInRange_iff {start count : Half} :
    (within 0 16383 start.toNat && within 1 16384 count.toNat) = true ↔ ExportInRange start count := by
  simp [within_iff, ExportInRange]

section

variable {s : State} {start count : Half} (tag : Byte)

theorem State.traceExport_of_range (h : ¬ExportInRange start count) :
    s.traceExport tag start count = s.refuse .range := by
  rw [State.traceExport, if_pos]
  rwa [Bool.not_eq_true', ← Bool.not_eq_true, exportInRange_iff]

variable (h : ExportInRange start count)

include h

theorem State.traceExport_of_none (hn : s.heldBank = none) : s.traceExport tag start count = s.refuse .notFound := by
  simp [State.traceExport, exportInRange_iff.2 h, hn]

variable {n : BankName} (hn : s.heldBank = some n)

include hn

theorem State.traceExport_of_busy (hb : ¬(s.bank n).AtRest) : s.traceExport tag start count = s.refuse .busy := by
  simp [State.traceExport, exportInRange_iff.2 h, hn, Bool.eq_false_iff.2 (mt Bank.atRest_iff.1 hb)]

theorem State.traceExport_of_rest (hb : (s.bank n).AtRest) {c : SweepContext} (hc : (s.bank n).context = some c) :
    s.traceExport tag start count =
      if c.settings.binCount < start.toNat + count.toNat then s.refuse .range
      else
        { state := s.setBank n
            { s.bank n with
              state := .exporting
              exporting := some
                { tag := tag, start := start.toNat, count := count.toNat, nextBin := start.toNat, nextIndex := 0,
                  cancel := false, sending := false } },
          status := .accepted, results := .nothing } := by
  simp [State.traceExport, exportInRange_iff.2 h, hn, Bank.atRest_iff.2 hb, hc]

end

/-- Settles O25: the refusals in the order of R88, then the bins asked for against the sweep's own bin count. -/
theorem traceExportStartsTheExport : Obligations.TraceExportStartsTheExport := by
  intro tag start count s hs
  refine ⟨fun hr => refuses_of_perform rfl hs (State.traceExport_of_range tag hr),
    fun h hn => refuses_of_perform rfl hs (State.traceExport_of_none tag h hn), fun n h hn =>
      ⟨fun hb => refuses_of_perform rfl hs (State.traceExport_of_busy tag h hn hb), fun c hstate hidle hc => ?_⟩⟩
  have rest := State.traceExport_of_rest tag h hn ⟨hstate, hidle⟩ hc
  refine ⟨fun habove => refuses_of_perform rfl hs (rest.trans (if_pos habove)), fun hbelow => ?_⟩
  exact answers_of_perform rfl hs (rest.trans (if_neg (Nat.not_lt.2 hbelow)))

/-! ### REANALYSE -/

theorem Reports.grants_iff {r : Reports} :
    r.grants = true ↔ r.occupancy + r.reserved + 11 ≤ 128 ∧ r.backPressure = false := by
  simp [Reports.grants, Config.grantMargin, Config.reportSlots]

theorem State.reanalyse_of_range (s : State) {profile : Byte} (h : 8 ≤ profile.toNat) :
    s.reanalyse profile = s.refuse .range := by
  simp [State.reanalyse, profileOf_eq_none.2 h]

section

variable {s : State} {profile : Byte} {p : ProfileNo} (hp : p.val = profile.toNat)

include hp

theorem State.reanalyse_of_none (hn : s.heldBank = none) : s.reanalyse profile = s.refuse .notFound := by
  simp [State.reanalyse, profileOf_eq_some.2 hp, hn]

variable {n : BankName} (hn : s.heldBank = some n)

include hn

/-- The state that an accepted REANALYSE leaves (R91). -/
theorem State.reanalyse_of_held :
    s.reanalyse profile =
      if !((s.bank n).state == .held && (s.bank n).reanalysis == .idle) then s.refuse .busy
      else if !s.reports.grants then s.refuse .busy
      else
        ((s.reserve.setBank n { s.bank n with reanalysis := .waiting p }).withBanks
          { (s.reserve.setBank n { s.bank n with reanalysis := .waiting p }).banks with
            ready := s.banks.ready ++ [n] }).ok := by
  simp only [State.reanalyse, profileOf_eq_some.2 hp, hn, State.ready_setBank]
  rfl

theorem State.reanalyse_of_busy (h : ¬((s.bank n).AtRest ∧ s.reports.grants = true)) :
    s.reanalyse profile = s.refuse .busy := by
  rw [State.reanalyse_of_held hp hn]
  by_cases hb : (s.bank n).AtRest
  · have hg : s.reports.grants = false := Bool.eq_false_iff.2 fun hg => h ⟨hb, hg⟩
    simp [hg]
  · rw [if_pos]
    rwa [Bool.not_eq_true', ← Bool.not_eq_true, Bank.atRest_iff]

theorem State.reanalyse_of_rest (hb : (s.bank n).AtRest) (hg : s.reports.grants = true) :
    s.reanalyse profile =
      ((s.reserve.setBank n { s.bank n with reanalysis := .waiting p }).withBanks
        { (s.reserve.setBank n { s.bank n with reanalysis := .waiting p }).banks with
          ready := s.banks.ready ++ [n] }).ok := by
  rw [State.reanalyse_of_held hp hn, if_neg, if_neg (by simp [hg])]
  rwa [Bool.not_eq_true', Bool.not_eq_false, Bank.atRest_iff]

end

/-- The ready list and the link are no part of a bank. -/
theorem State.bank_withReady (s : State) (l : List BankName) (k : Link) (n : BankName) :
    ((s.withBanks { s.banks with ready := l }).withLink k).bank n = s.bank n := by
  cases n <;> rfl

/-- Settles O26: the refusals in the order of R91, then the reservation, the mark and the ready list. -/
theorem reanalyseQueuesTheHeldBank : Obligations.ReanalyseQueuesTheHeldBank := by
  intro tag profile s hs
  refine ⟨fun hr => refuses_of_perform rfl hs (s.reanalyse_of_range hr), fun p hp =>
    ⟨fun hn => refuses_of_perform rfl hs (State.reanalyse_of_none hp hn), fun n hn => ⟨fun hb => ?_, fun hstate hidle hg => ?_⟩⟩⟩
  · refine refuses_of_perform rfl hs (State.reanalyse_of_busy hp hn fun ⟨hrest, hg⟩ => hb ?_)
    exact ⟨hrest.1, hrest.2, Reports.grants_iff.1 hg⟩
  · have rest := State.reanalyse_of_rest hp hn ⟨hstate, hidle⟩ (Reports.grants_iff.2 hg)
    refine answersWith_of_perform rfl hs rest fun l => ⟨?_, ?_, rfl, ?_, ?_, ?_⟩
    · rw [State.bank_withReady, State.bank_setBank]
    · rw [State.bank_withReady, State.bank_setBank_ne _ (otherBank_ne n)]
      rfl
    · exact State.retainSlot_setBank _ _ _
    · exact State.holdLimit_setBank _ _ _
    · apply State.ext_fields <;> simp [State.reserve]
      rfl

/-! ### BANK_RELEASE and the hold timer -/

/-- A freed bank leaves the rest of the state to the choice and the notices (R82, R87). -/
theorem State.freeBank_eq (s : State) (n : BankName) :
    s.freeBank n =
      { s.setBank n (s.bank n).freed with
        engine := (s.freeBank n).engine
        notices := if (s.bank n).hold = .expired then s.notices.raised .holdExpired else s.notices } := by
  unfold State.freeBank
  by_cases h : (s.bank n).hold = .expired
  · simp only [h, beq_self_eq_true, if_true]
    apply State.ext_fields <;> simp [State.raise, Notices.raised]
  · rw [if_neg (by simpa using h), if_neg h]
    apply State.ext_fields <;> simp

theorem State.freeBank_chosen (s : State) (n : BankName) : Chosen s (s.freeBank n) := by
  unfold State.freeBank
  split
  · exact EngineFollows.chosen (.of_eq (by simp))
  · exact EngineFollows.chosen (.of_eq (by simp))

section

variable {s : State} {n : BankName}

theorem State.bankRelease_of_held (h : s.heldBank = some n) : s.bankRelease = (s.releaseBank n).ok := by
  rw [State.bankRelease, h]

theorem State.releaseBank_of_pending (h : (s.bank n).releasePending = true) : s.releaseBank n = s := by
  rw [State.releaseBank, if_pos h]

variable (h : (s.bank n).releasePending = false)

include h

theorem State.releaseBank_of_rest (hb : (s.bank n).AtRest) : s.releaseBank n = s.freeBank n := by
  obtain ⟨hstate, hidle⟩ := hb
  simp [State.releaseBank, h, hstate, hidle]

theorem State.releaseBank_of_exporting (hb : (s.bank n).state = .exporting) {x : ExportRecord}
    (hx : (s.bank n).exporting = some x) :
    s.releaseBank n =
      s.setBank n { s.bank n with releasePending := true, exporting := some { x with cancel := true } } := by
  simp [State.releaseBank, h, hb, hx]

theorem State.releaseBank_of_working (hb : ¬(s.bank n).AtRest) (he : (s.bank n).state ≠ .exporting) :
    s.releaseBank n = s.setBank n { s.bank n with releasePending := true } := by
  rw [← Bank.atRest_iff] at hb
  rw [State.releaseBank, if_neg (by simp [h]), if_neg (by simpa using he), if_neg hb]

end

/-- Settles O27: the branches of R93 on the held bank, in their order. -/
theorem bankReleaseFreesOrMarks : Obligations.BankReleaseFreesOrMarks := by
  intro tag s hs
  refine ⟨fun hn => ?_, fun n hn => ⟨fun hp => ?_, fun hp hstate hidle => ?_, fun hp hstate x hx => ?_, fun hp hstate => ?_⟩⟩
  · have hd : s.bankRelease = s.refuse .notFound := by rw [State.bankRelease, hn]
    exact refuses_of_perform rfl hs hd
  · have hd := State.bankRelease_of_held hn
    rw [State.releaseBank_of_pending hp] at hd
    exact answers_of_perform rfl hs hd
  · have hd := State.bankRelease_of_held hn
    rw [State.releaseBank_of_rest hp ⟨hstate, hidle⟩] at hd
    refine answersWith_of_perform rfl hs hd fun l => ⟨s.freeBank_chosen n, ?_⟩
    exact congrArg (State.withLink · l) (s.freeBank_eq n)
  · have hd := State.bankRelease_of_held hn
    rw [State.releaseBank_of_exporting hp hstate hx] at hd
    exact answers_of_perform rfl hs hd
  · have hwork : ¬(s.bank n).AtRest ∧ (s.bank n).state ≠ .exporting := by
      rcases hstate with hstate | ⟨hstate, p, hw⟩ <;> simp [Bank.AtRest, *]
    have hd := State.bankRelease_of_held hn
    rw [State.releaseBank_of_working hp hwork.1 hwork.2] at hd
    exact answers_of_perform rfl hs hd

section

variable {s : State} {n : BankName}

theorem State.holdExpires_of_stopped (h : ∀ length, (s.bank n).hold ≠ .running length) : s.holdExpires n = s := by
  unfold State.holdExpires
  split
  next length hl => exact absurd hl (h length)
  next => rfl

variable {length : Nat} (h : (s.bank n).hold = .running length)

include h

theorem State.holdExpires_of_rest (hb : (s.bank n).AtRest) :
    s.holdExpires n = (s.setBank n { s.bank n with hold := .expired }).freeBank n := by
  simp only [State.holdExpires, h]
  rw [if_pos (Bank.atRest_iff.2 hb)]

theorem State.holdExpires_of_working (hb : ¬(s.bank n).AtRest) :
    s.holdExpires n = s.setBank n { s.bank n with hold := .expired, releasePending := true } := by
  simp only [State.holdExpires, h]
  rw [if_neg (mt Bank.atRest_iff.1 hb)]
  cases n <;> rfl

end

/-- Settles O28: a running timer turns on the bank's own state. -/
theorem holdExpiryFreesOrMarks : Obligations.HoldExpiryFreesOrMarks := by
  intro n s
  refine ⟨fun h => congrArg Host.Outcome.next (State.holdExpires_of_stopped h), fun length h => ⟨fun hstate hidle => ?_, fun hb => ?_⟩⟩
  · have rest := State.holdExpires_of_rest h ⟨hstate, hidle⟩
    generalize hu : s.setBank n { s.bank n with hold := .expired } = u at rest
    refine ⟨_, congrArg Host.Outcome.next rest, ?_, ?_⟩
    · have chosen := u.freeBank_chosen n
      rw [← hu] at chosen ⊢
      simpa [Chosen, State.sweepInFlight] using chosen
    · have freed := u.freeBank_eq n
      refine freed.trans ?_
      rw [← hu]
      cases n <;> rfl
  · exact congrArg Host.Outcome.next (State.holdExpires_of_working h hb)

end Sys2Proof.Machine

/-! Proofs of the statements about TEST_NOW, and about the commands that drop a baseline, clear a condition and write a
profile. -/

namespace Sys2Proof.Machine

/-! ### The refusals of TEST_NOW -/

/-- The retain slot after a TEST_NOW that carries `retain` (R57). -/
def Banks.asked (b : Banks) (sp : Span) (retain : Byte) : Banks :=
  if retain = 1 then { b with retainSlot := some sp } else b

/-- The state in which an accepted TEST_NOW is served (R57). -/
def State.asked (s : State) (sp : Span) (retain : Byte) : State :=
  s.withBanks (s.banks.asked sp retain)

theorem State.placeRetain_eq (s : State) (sp : Span) (retain : Byte) :
    s.placeRetain sp (retain == 1) = s.asked sp retain := by
  unfold State.placeRetain State.asked Banks.asked
  by_cases h : retain = 1
  · rw [if_pos (beq_iff_eq.2 h), if_pos h]
  · rw [if_neg (mt beq_iff_eq.1 h), if_neg h]
    rfl

theorem State.testNow_of_range (s : State) {span retain : Byte} (h : 192 ≤ span.toNat ∨ 2 ≤ retain.toNat) :
    s.testNow span retain = s.refuse .range := by
  unfold State.testNow
  split
  next hspan hretain =>
    rw [← spanOf_eq_none, ← yesNo_eq_none, hspan, hretain] at h
    simp at h
  next => rfl

section

variable {s : State} {span retain : Byte} {sp : Span} (hsp : sp.val = span.toNat) (hr : retain.toNat ≤ 1)

include hsp hr

theorem State.testNow_of_disabled (h : (s.entry sp).enabled = false) : s.testNow span retain = s.refuse .notFound := by
  simp [State.testNow, spanOf_eq_some.2 hsp, yesNo_of_le hr, h]

/-- TEST_NOW of an enabled span: the two refusals with BUSY, then the test (R57). -/
theorem State.testNow_of_enabled (h : (s.entry sp).enabled = true) :
    s.testNow span retain =
      if s.engine.onDemand.isSome ∨ (retain = 1 ∧ (s.heldOrExporting = true ∨ s.banks.retainSlot.isSome = true)) then
        s.refuse .busy
      else ((s.asked sp retain).serveTest sp (retain == 1)).ok := by
  simp only [State.testNow, spanOf_eq_some.2 hsp, yesNo_of_le hr, h, Bool.not_true, Bool.false_eq_true, if_false,
    ← State.placeRetain_eq]
  cases s.engine.onDemand.isSome <;> simp

theorem State.testNow_of_accepted (h : (s.entry sp).enabled = true) (hd : s.engine.onDemand = none)
    (hb : ¬(retain = 1 ∧ (s.heldOrExporting = true ∨ s.banks.retainSlot.isSome = true))) :
    s.testNow span retain = ((s.asked sp retain).serveTest sp (retain == 1)).ok := by
  rw [State.testNow_of_enabled hsp hr h, if_neg]
  simpa [hd] using hb

end

/-! ### The test by the engine's state (R58) -/

/-- The engine's state leaves nothing to end or convert. -/
def EngineState.free : EngineState → Bool
  | .idle | .waiting | .draining => true
  | _ => false

section

variable {s : State} {sp : Span} (retain : Bool)

theorem State.serveTest_of_free (h : s.engine.state.free = true) : s.serveTest sp retain = s.fillSlot sp := by
  unfold State.serveTest
  cases hs : s.engine.state <;> rw [hs] at h <;> first | rfl | cases h

variable {c : SweepContext} (hf : s.engine.state.free = false) (hc : s.context = some c)

include hf hc

/-- A sweep that is held is converted, pre-empted or left alone. -/
theorem State.serveTest_of_held :
    s.serveTest sp retain =
      if c.span = sp then s.convert c retain else if s.stoppable c then (s.fillSlot sp).preempt c else s.fillSlot sp := by
  unfold State.serveTest
  rw [hc]
  cases hs : s.engine.state <;> rw [hs] at hf <;> first | rfl | cases hf

end

/-- A sweep that can be ended is in flight and not ended yet. -/
theorem State.free_of_stoppable {s : State} {c : SweepContext} (h : s.stoppable c = true) :
    s.engine.state.free = false := by
  unfold State.stoppable at h
  cases hs : s.engine.state <;> rw [hs] at h <;> first | rfl | cases h

theorem State.inFlight_of_not_free {s : State} (h : s.engine.state.free = false) : s.sweepInFlight = true := by
  unfold State.sweepInFlight
  cases hs : s.engine.state <;> rw [hs] at h <;> first | rfl | cases h

/-- With a sweep in flight the choice does nothing (R38). -/
theorem State.choose_of_inFlight {s : State} (h : s.sweepInFlight = true) : s.choose = s := by
  rw [State.choose_eq, if_pos h]

theorem State.fillSlot_of_inFlight {s : State} (h : s.sweepInFlight = true) (sp : Span) :
    s.fillSlot sp = s.withEngine { s.engine with onDemand := some sp } :=
  State.choose_of_inFlight h

/-- Without a sweep the filled slot is a source, and the engine waits (R38, R58). -/
theorem State.fillSlot_of_waiting {s : State} (h : s.sweepInFlight = false) (sp : Span) :
    s.fillSlot sp = s.withEngine { s.engine with onDemand := some sp, state := .waiting } := by
  have hf : ¬(s.withEngine { s.engine with onDemand := some sp }).sweepInFlight = true := by
    rw [Bool.not_eq_true]
    exact h
  have hsource : (s.withEngine { s.engine with onDemand := some sp }).sourceExists = true := by
    simp [State.sourceExists]
  rw [State.fillSlot, State.choose_eq, if_neg hf, if_pos hsource]
  rfl

theorem State.stoppable_asked (s : State) (sp : Span) (retain : Byte) (c : SweepContext) :
    (s.asked sp retain).stoppable c = s.stoppable c :=
  rfl

/-- The context is read in the bank, not in the retain slot. -/
theorem State.context_asked (s : State) (sp : Span) (retain : Byte) :
    (s.asked sp retain).context = s.context := by
  have hbank : ∀ n, (s.asked sp retain).bank n = s.bank n := fun n => by
    unfold State.asked Banks.asked
    split <;> cases n <;> rfl
  have hengine : (s.asked sp retain).engine = s.engine := rfl
  simp only [State.context, hengine, hbank]

/-- Settles O22: the refusals in the order of R57; with no sweep to end or convert the slot alone is filled, and the
choice that follows finds it. -/
theorem testNowFillsTheSlot : Obligations.TestNowFillsTheSlot := by
  intro tag span retain s hs
  refine ⟨fun hr => refuses_of_perform rfl hs (s.testNow_of_range hr), fun sp hsp hr => ⟨fun he => ?_, fun he hb => ?_,
    fun he hd hb => ⟨fun hstate => ?_, fun hstate => ?_, fun c hstate hc hne hfull => ?_⟩⟩⟩
  · exact refuses_of_perform rfl hs (State.testNow_of_disabled hsp hr he)
  · exact refuses_of_perform rfl hs ((State.testNow_of_enabled hsp hr he).trans (if_pos hb))
  · have hd' := State.testNow_of_accepted hsp hr he hd hb
    have hfree : s.engine.state.free = true := by rcases hstate with h | h <;> rw [h] <;> rfl
    have hidle : s.sweepInFlight = false := by rcases hstate with h | h <;> simp [State.sweepInFlight, h]
    rw [State.serveTest_of_free _ (s := s.asked sp retain) hfree, State.fillSlot_of_waiting (s := s.asked sp retain) hidle] at hd'
    exact answers_of_perform rfl hs hd'
  · have hd' := State.testNow_of_accepted hsp hr he hd hb
    have hfree : s.engine.state.free = true := by rw [hstate]; rfl
    have hflight : s.sweepInFlight = true := by simp [State.sweepInFlight, hstate]
    rw [State.serveTest_of_free _ (s := s.asked sp retain) hfree, State.fillSlot_of_inFlight (s := s.asked sp retain) hflight] at hd'
    exact answers_of_perform rfl hs hd'
  · have hd' := State.testNow_of_accepted hsp hr he hd hb
    have hfree : s.engine.state.free = false := by rw [hstate]; rfl
    have hstop : s.stoppable c = false := by simp [State.stoppable, hstate, SweepContext.full, hfull]
    have held := State.serveTest_of_held (retain == 1) (s := s.asked sp retain) (sp := sp) hfree
      ((s.context_asked sp retain).trans hc)
    rw [held, if_neg hne, if_neg (by rw [s.stoppable_asked, hstop]; exact Bool.false_ne_true),
      State.fillSlot_of_inFlight (s := s.asked sp retain) (State.inFlight_of_not_free hfree)] at hd'
    exact answers_of_perform rfl hs hd'

/-! ### A RETRY request at the head (R148) -/

section

variable {s : State} {sp : Span} (cls : PulseClass)

theorem State.recheckAnswer_of_queued (h : s.admissible sp = true) (hq : s.queued sp = true) :
    s.recheckAnswer sp = .updated := by
  simp [State.recheckAnswer, h, hq]

theorem State.recheckAnswer_of_room (h : s.admissible sp = true) (hq : s.queued sp = false)
    (hl : s.conditions.recheck.length < 32) : s.recheckAnswer sp = .joined := by
  simp [State.recheckAnswer, h, hq, Config.recheckSlots, Nat.not_le.2 hl]

theorem State.requestHead_of_refused (h : s.admissible sp = false) : s.requestHead sp cls = s := by
  rw [State.requestHead, (s.recheckAnswer_iff sp).1.2 h]

theorem State.requestHead_of_full (h : s.QueueIsFull sp) : s.requestHead sp cls = s.raise .recheckFull := by
  rw [State.requestHead, (s.recheckAnswer_iff sp).2.2 h]

theorem State.requestHead_of_queued (h : s.admissible sp = true) (hq : s.queued sp = true) :
    s.requestHead sp cls = (s.setRecheck (moveToHead sp s.conditions.recheck)).choose := by
  rw [State.requestHead, State.recheckAnswer_of_queued h hq]

theorem State.requestHead_of_room (h : s.admissible sp = true) (hq : s.queued sp = false)
    (hl : s.conditions.recheck.length < 32) :
    s.requestHead sp cls = (s.setRecheck ({ span := sp, reason := .retry cls } :: s.conditions.recheck)).choose := by
  rw [State.requestHead, State.recheckAnswer_of_room h hq hl]

end

theorem State.requestHead_engine_of_inFlight {s : State} (h : s.sweepInFlight = true) (sp : Span) (cls : PulseClass) :
    (s.requestHead sp cls).engine = s.engine := by
  have queued : ∀ q, (s.setRecheck q).choose.engine = s.engine := fun q =>
    (congrArg State.engine (State.choose_of_inFlight (s := s.setRecheck q) h)).trans rfl
  unfold State.requestHead
  cases s.recheckAnswer sp with
  | refused => rfl
  | dropped => rfl
  | updated => exact queued _
  | joined => exact queued _

/-- Only a full queue raises a kind (R147, R148). -/
theorem State.requestHead_notices (s : State) (sp : Span) (cls : PulseClass) :
    (s.QueueIsFull sp → (s.requestHead sp cls).notices = s.notices.raised .recheckFull) ∧
      (¬s.QueueIsFull sp → (s.requestHead sp cls).notices = s.notices) := by
  refine ⟨fun h => by rw [State.requestHead_of_full cls h]; rfl, fun h => ?_⟩
  have hnot : s.recheckAnswer sp ≠ .dropped := mt (s.recheckAnswer_iff sp).2.1 h
  unfold State.requestHead
  cases ha : s.recheckAnswer sp with
  | refused => rfl
  | dropped => exact absurd ha hnot
  | updated => simp [State.setRecheck]
  | joined => simp [State.setRecheck]

/-- The pre-empting test's own state: the slots filled, with the sweep still held (R57, R58). -/
def State.slotsFilled (s : State) (sp : Span) (retain : Byte) : State :=
  { s with banks := s.banks.asked sp retain, engine := { s.engine with onDemand := some sp } }

/-- Settles O23: conversion replaces the context alone; pre-emption is the request at the head, whose answer is that of
the queue before it, and then the decided outcome. -/
theorem testNowConvertsOrPreempts : Obligations.TestNowConvertsOrPreempts := by
  intro tag span retain s sp c hs hsp hr he hd hb hc
  have accepted := State.testNow_of_accepted hsp hr he hd hb
  have context := (s.context_asked sp retain).trans hc
  refine ⟨fun hsame hstate => ?_, fun hne hstop => ?_⟩
  · have hfree : s.engine.state.free = false := by
      rcases hstate with hstop | hfiring
      · exact State.free_of_stoppable hstop
      · rw [hfiring]; rfl
    rw [State.serveTest_of_held _ (s := s.asked sp retain) hfree context, if_pos hsame] at accepted
    exact answers_of_perform rfl hs accepted
  · have hfree := State.free_of_stoppable hstop
    have hflight := State.inFlight_of_not_free hfree
    rw [State.serveTest_of_held _ (s := s.asked sp retain) hfree context, if_neg hne, if_pos ((s.stoppable_asked sp retain c).trans hstop),
      State.fillSlot_of_inFlight (s := s.asked sp retain) hflight] at accepted
    obtain ⟨v, hv⟩ : ∃ v, v = s.slotsFilled sp retain := ⟨_, rfl⟩
    have conditions : v.conditions = s.conditions := by rw [hv]; rfl
    have admissible : v.admissible c.span = s.admissible c.span := by rw [hv]; rfl
    have queued : v.queued c.span = s.queued c.span := by rw [hv]; rfl
    have full : v.QueueIsFull c.span ↔ s.QueueIsFull c.span := by rw [hv]; rfl
    have engine : (v.requestHead c.span c.cls).engine = v.engine :=
      State.requestHead_engine_of_inFlight (by rw [hv]; exact hflight) _ _
    have hd : s.testNow span retain = ((v.requestHead c.span c.cls).decideOutcome .preempted).ok := by
      rw [hv]
      exact accepted
    obtain ⟨raised, quiet⟩ := v.requestHead_notices c.span c.cls
    refine answersWith_of_perform rfl hs hd fun l => ⟨?_, ?_, fun h => ?_, fun ha hq => ?_, fun ha hq hl => ?_,
      fun hf => ?_, fun hf => ?_, ?_, ?_⟩
    · change (v.requestHead c.span c.cls).engine.decided .preempted = _
      rw [engine, hv]
      rfl
    · change (v.requestHead c.span c.cls).port.discardSweep = _
      rw [(v.requestHead_frame c.span c.cls).2.2.1, hv]
      rfl
    · change (v.requestHead c.span c.cls).conditions = _
      rcases h with ha | hf
      · rw [State.requestHead_of_refused _ (admissible.trans ha), conditions]
      · rw [State.requestHead_of_full _ (full.2 hf)]
        exact conditions
    · change (v.requestHead c.span c.cls).conditions.recheck = _
      rw [State.requestHead_of_queued _ (admissible.trans ha) (queued.trans hq), conditions]
      simp [State.setRecheck, moveToHead]
    · change (v.requestHead c.span c.cls).conditions.recheck = _
      rw [State.requestHead_of_room _ (admissible.trans ha) (queued.trans hq) (by rw [conditions]; exact hl), conditions]
      simp [State.setRecheck]
    · refine (raised (full.2 hf)).trans ?_
      rw [hv]
      rfl
    · refine (quiet (mt full.1 hf)).trans ?_
      rw [hv]
      rfl
    · have entries : (v.requestHead c.span c.cls).conditions.entries = s.conditions.entries := by
        rw [State.requestHead_entries, conditions]
      change (v.requestHead c.span c.cls).conditions = _
      simp only [← entries]
      rfl
    · rw [hv]
      apply State.ext_fields <;> simp [State.decideOutcome, State.slotsFilled]
      rfl

/-! ### BASELINE_DROP and CONDITION_CLEAR -/

theorem State.baselineDrop_of_range (s : State) {span : Byte} (h : 192 ≤ span.toNat) :
    s.baselineDrop span = s.refuse .range := by
  simp [State.baselineDrop, spanOf_eq_none.2 h]

theorem State.conditionClear_of_range (s : State) {span : Byte} (h : 192 ≤ span.toNat) :
    s.conditionClear span = s.refuse .range := by
  simp [State.conditionClear, spanOf_eq_none.2 h]

section

variable {s : State} {span : Byte} {sp : Span} (hsp : sp.val = span.toNat)

include hsp

theorem State.baselineDrop_of_absent (h : (s.slot sp).record = none) : s.baselineDrop span = s.refuse .notFound := by
  simp [State.baselineDrop, spanOf_eq_some.2 hsp, h]

/-- A drop returns the zone records of the baseline to the pool (R106). -/
theorem State.baselineDrop_of_present {b : Baseline} (h : (s.slot sp).record = some b) :
    s.baselineDrop span =
      ((s.setSlot sp { record := none, generation := (s.slot sp).generation + 1 }
        (s.baselines.poolFree + b.zones.length)).setBack sp).ok := by
  simp [State.baselineDrop, spanOf_eq_some.2 hsp, h, BaselineSlot.held, nextByte]

theorem State.conditionClear_of_val : s.conditionClear span = (s.setBack sp).ok := by
  simp [State.conditionClear, spanOf_eq_some.2 hsp]

end

/-- Settles O30: a drop is a write of the slot followed by the set-back, a clear the set-back alone. -/
theorem dropAndClearSetTheSpanBack : Obligations.DropAndClearSetTheSpanBack := by
  intro tag span s hs
  refine ⟨fun hr => ⟨refuses_of_perform rfl hs (s.baselineDrop_of_range hr),
    refuses_of_perform rfl hs (s.conditionClear_of_range hr)⟩, fun sp hsp => ⟨fun h => ?_, fun b h => ?_, ?_⟩⟩
  · exact refuses_of_perform rfl hs (State.baselineDrop_of_absent hsp h)
  · refine answersWith_of_perform rfl hs (State.baselineDrop_of_present hsp h) fun l => ?_
    set u := s.setSlot sp _ _ with hu
    refine ⟨?_, ⟨u.setBack_conditions sp, u.setBack_chosen sp, u.setBack_engine sp⟩, ?_⟩
    · simp [hu, State.setSlot]
    · rw [u.setBack_eq sp, hu]
      rfl
  · refine answersWith_of_perform rfl hs (State.conditionClear_of_val hsp) fun l => ?_
    refine ⟨⟨s.setBack_conditions sp, s.setBack_chosen sp, s.setBack_engine sp⟩, ?_⟩
    exact congrArg (State.withLink · l) (s.setBack_eq sp)

/-! ### PROFILE_WRITE -/

section

variable {floor : Half} {persistence stepGap : Byte} {bend grown breakDrop : Half}
  {tolerance blind confirm clearCount : Byte}

/-- The ranges of a profile's fields (R113, section 7.1). -/
def ProfileInRange (persistence stepGap : Byte) (bend grown breakDrop : Half) (confirm clearCount : Byte) : Prop :=
  (1 ≤ persistence.toNat ∧ persistence.toNat ≤ 64) ∧ (1 ≤ stepGap.toNat ∧ stepGap.toNat ≤ 64) ∧
    (1 ≤ bend.toNat ∧ bend.toNat ≤ 20000) ∧ (1 ≤ grown.toNat ∧ grown.toNat ≤ 20000) ∧ 1 ≤ breakDrop.toNat ∧
    confirm.toNat ≤ 1 ∧ (1 ≤ clearCount.toNat ∧ clearCount.toNat ≤ 15)

/-- The fields of a profile are read exactly in their ranges, each as its own value (R113). -/
theorem profileFields_eq_some {x : Profile} :
    profileFields floor persistence stepGap bend grown breakDrop tolerance blind confirm clearCount = some x ↔
      ProfileInRange persistence stepGap bend grown breakDrop confirm clearCount ∧
        { floor := floor.toNat, persistence := persistence.toNat, stepGap := stepGap.toNat, bend := bend.toNat,
          grown := grown.toNat, breakDrop := breakDrop.toNat, tolerance := tolerance.toNat, blind := blind.toNat,
          confirm := confirm == 1, clearCount := clearCount.toNat } = x := by
  unfold profileFields
  by_cases hc : confirm.toNat ≤ 1
  · have habove : breakDrop.toNat ≤ 65535 := by omega
    simp only [yesNo_of_le hc, keepIf_eq_some, Bool.and_eq_true, within_iff, ProfileInRange, hc, habove, and_true,
      true_and, and_assoc]
  · rw [yesNo_eq_none.2 (by omega)]
    simp [ProfileInRange, hc]

end

/-- Settles O31: the fields are read as a whole, and the write is of the table's entry. -/
theorem profileWriteWritesTheProfile : Obligations.ProfileWriteWritesTheProfile := by
  intro tag profile floor persistence stepGap bend grown breakDrop tolerance blind confirm clearCount s hs
  refine ⟨fun hbad => ?_, fun p hp hgood => ?_⟩
  · have hd : s.profileWrite profile floor persistence stepGap bend grown breakDrop tolerance blind confirm clearCount =
        s.refuse .range := by
      unfold State.profileWrite
      split
      next p x hp hx =>
        have hle : profile.toNat ≤ 7 := by
          have := profileOf_eq_some.1 hp
          omega
        exact absurd ⟨hle, (profileFields_eq_some.1 hx).1⟩ hbad
      next => rfl
    exact refuses_of_perform rfl hs hd
  · have hx := profileFields_eq_some (floor := floor) (tolerance := tolerance) (blind := blind) |>.2 ⟨hgood.2, rfl⟩
    refine answers_of_perform rfl hs ?_
    change s.profileWrite _ _ _ _ _ _ _ _ _ _ _ = _
    rw [State.profileWrite, profileOf_eq_some.2 hp, hx]
    rfl

end Sys2Proof.Machine

/-! Proofs of the statements about the transitions of a condition entry, and about the commands of the report queue and
the notices. -/

namespace Sys2Proof.Machine

/-! ### The transitions of an ANALYSED result -/

/-- A finding agrees with an entry's lead: the same kind, at most the tolerance apart (R135). -/
def ConditionEntry.Agrees (e : ConditionEntry) (f : Finding) (tolerance : Nat) : Prop :=
  ∃ l, e.lead = some l ∧ l.kind = f.kind ∧ l.location ≤ f.location + tolerance ∧ f.location ≤ l.location + tolerance

theorem distance_le_iff {m n k : Nat} : distance m n ≤ k ↔ m ≤ n + k ∧ n ≤ m + k := by
  unfold distance
  omega

theorem ConditionEntry.matchedBy_iff {e : ConditionEntry} {f : Finding} {tolerance : Nat} :
    e.matchedBy f tolerance = true ↔ e.Agrees f tolerance := by
  unfold ConditionEntry.matchedBy ConditionEntry.Agrees
  cases e.lead with
  | none => simp
  | some l => simp [Lead.matchedBy, distance_le_iff]

section

variable {e : ConditionEntry} {f : Finding} {rest : List Finding} {tolerance clearCount : Nat} {confirm : Bool}

theorem ConditionEntry.judge_fresh (h : e.state = .unknown ∨ e.state = .clear) :
    e.judge (f :: rest) tolerance confirm clearCount = e.judgeFresh f confirm := by
  rcases h with h | h <;> simp only [ConditionEntry.judge, h]

theorem ConditionEntry.judge_suspect (h : e.state = .suspect) :
    e.judge (f :: rest) tolerance confirm clearCount = e.judgeSuspect f tolerance := by
  simp only [ConditionEntry.judge, h]

theorem ConditionEntry.judge_faulted (h : e.state = .faulted) :
    e.judge (f :: rest) tolerance confirm clearCount = e.judgeFaulted f tolerance := by
  simp only [ConditionEntry.judge, h]

end

/-- Settles O34: one row of the transitions for each state, and for each answer of the match with the lead. -/
theorem judgementFollowsTheTransitions : Obligations.JudgementFollowsTheTransitions := by
  intro e f rest tolerance clearCount confirm
  have agrees : e.Agrees f tolerance → e.matchedBy f tolerance = true := ConditionEntry.matchedBy_iff.2
  have differs : ¬e.Agrees f tolerance → ¬e.matchedBy f tolerance = true := mt ConditionEntry.matchedBy_iff.1
  refine ⟨fun h => ?_, fun h => ?_, fun h => ?_, fun h hn => ?_, fun h hn => ?_, fun h hc => ?_, fun h hc => ?_,
    fun h ha => ?_, fun h ha hn => ?_, fun h ha hn => ?_, fun h ha => ?_, fun h ha => ?_⟩
  · simp only [ConditionEntry.judge, ConditionEntry.judgeClean, h]; rfl
  · simp only [ConditionEntry.judge, ConditionEntry.judgeClean, h]; rfl
  · simp only [ConditionEntry.judge, ConditionEntry.judgeClean, h]; rfl
  · simp only [ConditionEntry.judge, ConditionEntry.judgeClean, h, if_pos hn]; rfl
  · simp only [ConditionEntry.judge, ConditionEntry.judgeClean, h, if_neg (Nat.not_le.2 hn)]; rfl
  · rw [ConditionEntry.judge_fresh h, ConditionEntry.judgeFresh, if_neg (by simp [hc])]; rfl
  · rw [ConditionEntry.judge_fresh h, ConditionEntry.judgeFresh, if_pos hc]; rfl
  · rw [ConditionEntry.judge_suspect h, ConditionEntry.judgeSuspect, if_pos (agrees ha)]; rfl
  · rw [ConditionEntry.judge_suspect h, ConditionEntry.judgeSuspect, if_neg (differs ha), if_pos hn]; rfl
  · rw [ConditionEntry.judge_suspect h, ConditionEntry.judgeSuspect, if_neg (differs ha), if_neg (Nat.not_le.2 hn)]; rfl
  · rw [ConditionEntry.judge_faulted h, ConditionEntry.judgeFaulted, if_pos (agrees ha)]
  · rw [ConditionEntry.judge_faulted h, ConditionEntry.judgeFaulted, if_neg (differs ha)]; rfl

/-! ### DRAIN -/

section

variable {s : State} {n : Byte}

theorem State.drain_of_range (h : n.toNat = 0 ∨ 8 < n.toNat) : s.drain n = s.refuse .range := by
  have hw : within 1 8 n.toNat = false := by
    rw [← Bool.not_eq_true, within_iff]
    omega
  simp [State.drain, hw]

variable (h : 1 ≤ n.toNat ∧ n.toNat ≤ 8)

include h

theorem State.drain_of_stream (hd : s.reports.delivery = .stream) : s.drain n = s.refuse .busy := by
  simp [State.drain, within_iff.2 h, hd]

theorem State.drain_of_held (hd : s.reports.delivery = .held) :
    s.drain n =
      { state := s.takeRecords n.toNat, status := .ok,
        results := .drained (s.reports.records.take n.toNat) (s.takeRecords n.toNat).reports.occupancy } := by
  simp [State.drain, within_iff.2 h, hd]

end

theorem State.checkResume_reports (s : State) :
    s.checkResume.reports =
      { s.reports with
        backPressure := if s.reports.occupancy ≤ s.reports.resumeMark then false else s.reports.backPressure } := by
  unfold State.checkResume
  by_cases h : s.reports.occupancy ≤ s.reports.resumeMark
  · cases hb : s.reports.backPressure
    · rw [if_neg (by simp), if_pos h, ← hb]
    · simp [h]
  · simp [h]

theorem State.takeRecords_of_nil {s : State} (h : s.reports.records = []) (n : Nat) : s.takeRecords n = s := by
  simp [State.takeRecords, h]

/-- The oldest records leave, and the rest follows the resume mark (R155 to R157). -/
theorem State.takeRecords_of_ne_nil {s : State} (h : s.reports.records ≠ []) (n : Nat) :
    Chosen s (s.takeRecords n) ∧
      (s.takeRecords n).reports =
        { s.reports with
          records := s.reports.records.drop n
          backPressure :=
            if s.reports.occupancy - n ≤ s.reports.resumeMark then false else s.reports.backPressure } := by
  have taken : s.takeRecords n =
      ((s.withReports { s.reports with records := s.reports.records.drop n }).checkResume).choose := by
    simp [State.takeRecords, h]
  rw [taken]
  refine ⟨EngineFollows.chosen (.of_eq (by simp)), ?_⟩
  simp only [State.choose_frame, State.checkResume_reports, State.withReports_reports, Reports.occupancy,
    List.length_drop]
  rfl

theorem State.takeRecords_occupancy (s : State) (n : Nat) :
    (s.takeRecords n).reports.occupancy = s.reports.occupancy - n := by
  by_cases h : s.reports.records = []
  · simp [State.takeRecords_of_nil h, Reports.occupancy, h]
  · rw [(State.takeRecords_of_ne_nil h n).2, Reports.occupancy, Reports.occupancy, List.length_drop]

/-- Settles O35: the refusals in their order; the taking leaves an empty queue alone. -/
theorem drainTakesTheOldestRecords : Obligations.DrainTakesTheOldestRecords := by
  intro tag n s hs
  refine ⟨fun hr => refuses_of_perform rfl hs (State.drain_of_range hr),
    fun hlo hhi hd => refuses_of_perform rfl hs (State.drain_of_stream ⟨hlo, hhi⟩ hd), fun hlo hhi hd => ?_⟩
  have held := State.drain_of_held ⟨hlo, hhi⟩ hd
  rw [State.takeRecords_occupancy] at held
  refine answersWith_of_perform rfl hs held fun l => ⟨fun hnil => ?_, fun hne => ?_, ?_⟩
  · rw [State.takeRecords_of_nil hnil]
    rfl
  · exact State.takeRecords_of_ne_nil hne n.toNat
  · apply State.ext_fields <;> simp

/-! ### The notices -/

theorem getLsbD_kindBit (k : Fin 13) (j : Nat) : (kindBit k).getLsbD j = decide (j = k.val) := by
  unfold kindBit
  rw [BitVec.getLsbD_twoPow]
  have := k.isLt
  by_cases h : j = k.val
  · subst h; simp
  · simp [h, eq_comm]

theorem getLsbD_kindSet (ks : List (Fin 13)) (j : Nat) :
    (kindSet ks).getLsbD j = true ↔ ∃ k ∈ ks, k.val = j := by
  induction ks with
  | nil => simp [kindSet]
  | cons k rest ih =>
    rw [kindSet, BitVec.getLsbD_or, Bool.or_eq_true, ih, getLsbD_kindBit, decide_eq_true_eq, List.exists_mem_cons_iff,
      eq_comm]

/-- The level kind of number `k` has its condition hold (R161). -/
def State.HoldsLevel (s : State) (k : Nat) : Prop :=
  (k = 7 ∧ s.port.gate = .hot) ∨ (k = 11 ∧ s.reports.backPressure = true) ∨ (k = 12 ∧ s.window.reference = .lost)

theorem State.levelsHolding_getLsbD (s : State) (k : Nat) :
    s.levelsHolding.getLsbD k = true ↔ s.HoldsLevel k := by
  have bit : ∀ (c : Prop) [Decidable c] (n : Fin 13),
      (if c then kindBit n else 0).getLsbD k = true ↔ k = n.val ∧ c := fun c _ n => by
    split <;> simp [*, getLsbD_kindBit]
  rw [State.levelsHolding, BitVec.getLsbD_or, BitVec.getLsbD_or, Bool.or_eq_true, Bool.or_eq_true, bit, bit, bit,
    beq_iff_eq, beq_iff_eq, or_assoc]
  rfl

/-- A set with no kind is empty. -/
theorem exists_getLsbD_of_ne_zero {x : BitVec 13} : x ≠ 0 ↔ ∃ k, k < 13 ∧ x.getLsbD k = true := by
  refine ⟨fun h => ?_, fun ⟨k, _, hk⟩ h => ?_⟩
  · by_contra hno
    refine h (BitVec.eq_of_getLsbD_eq fun k hk => ?_)
    rw [BitVec.ofNat_eq_ofNat, BitVec.getLsbD_zero, Bool.eq_false_iff]
    exact fun hx => hno ⟨k, hk, hx⟩
  · rw [h] at hk
    simp at hk

theorem State.alert_iff (s : State) :
    s.alert = true ↔ ∃ k, k < 13 ∧ s.notices.pending.getLsbD k = true ∧ s.notices.mask.getLsbD k = false := by
  have bits : ∀ k, k < 13 → ((s.notices.pending &&& ~~~s.notices.mask).getLsbD k = true ↔
      s.notices.pending.getLsbD k = true ∧ s.notices.mask.getLsbD k = false) := fun k hk => by
    simp [hk]
  rw [State.alert, bne_iff_ne, exists_getLsbD_of_ne_zero]
  exact exists_congr fun k => and_congr_right fun hk => bits k hk

/-- A named kind stays pending while it is a level kind whose condition holds (R163). -/
theorem State.acknowledged_getLsbD (s : State) (ks : List (Fin 13)) {k : Nat} (hk : k < 13) :
    (s.acknowledged ks).getLsbD k = true ↔
      s.notices.pending.getLsbD k = true ∧ ((∀ x ∈ ks, x.val ≠ k) ∨ s.HoldsLevel k) := by
  rw [State.acknowledged, BitVec.getLsbD_and, BitVec.getLsbD_not, BitVec.getLsbD_and, BitVec.getLsbD_not,
    ← State.levelsHolding_getLsbD]
  have named : (∀ x ∈ ks, x.val ≠ k) ↔ ¬(kindSet ks).getLsbD k = true := by
    rw [getLsbD_kindSet]
    simp
  rw [named]
  cases (kindSet ks).getLsbD k <;> cases s.levelsHolding.getLsbD k <;> simp [hk]

/-- The kind numbers are read when all of them are kinds, each as itself (R163). -/
theorem kindsOf_of_le {kinds : List Byte} (h : ∀ b ∈ kinds, b.toNat ≤ 12) :
    ∃ ks, kindsOf kinds = some ks ∧ ks.map (·.val) = kinds.map (·.toNat) := by
  induction kinds with
  | nil => exact ⟨[], rfl, rfl⟩
  | cons b rest ih =>
    rw [List.forall_mem_cons] at h
    obtain ⟨ks, hks, hmap⟩ := ih h.2
    have hb : belowOf 13 b.toNat = some ⟨b.toNat, by omega⟩ := belowOf_eq_some.2 rfl
    exact ⟨⟨b.toNat, by omega⟩ :: ks, by simp only [kindsOf, hb, hks], by simp [hmap]⟩

theorem le_of_kindsOf {kinds : List Byte} {ks : List (Fin 13)} (h : kindsOf kinds = some ks) :
    (∀ b ∈ kinds, b.toNat ≤ 12) ∧ ks.length = kinds.length := by
  induction kinds generalizing ks with
  | nil =>
    obtain rfl : [] = ks := Option.some.inj h
    simp
  | cons b rest ih =>
    unfold kindsOf at h
    split at h
    next k xs hk hxs =>
      obtain rfl : k :: xs = ks := Option.some.inj h
      obtain ⟨hle, hlen⟩ := ih hxs
      have := belowOf_eq_some.1 hk
      exact ⟨List.forall_mem_cons.2 ⟨by omega, hle⟩, by simp [hlen]⟩
    next => cases h

/-- The operands of NOTICE_ACK that pass its checks (R163). -/
def KindsPass (kinds : List Byte) : Prop :=
  1 ≤ kinds.length ∧ kinds.length ≤ 13 ∧ ∀ b ∈ kinds, b.toNat ≤ 12

theorem State.noticeAck_of_range (s : State) {kinds : List Byte} (h : ¬KindsPass kinds) :
    s.noticeAck kinds = s.refuse .range := by
  unfold State.noticeAck
  split
  next ks hks =>
    obtain ⟨hle, hlen⟩ := le_of_kindsOf hks
    rw [if_neg]
    rw [within_iff, hlen]
    exact fun ⟨hlo, hhi⟩ => h ⟨hlo, hhi, hle⟩
  next => rfl

theorem State.noticeAck_of_pass (s : State) {kinds : List Byte} {ks : List (Fin 13)} (h : KindsPass kinds)
    (hks : kindsOf kinds = some ks) :
    s.noticeAck kinds =
      (s.withNotices { s.notices with pending := s.acknowledged ks }).okWith (.noticeSet (s.acknowledged ks)) := by
  obtain ⟨hlo, hhi, -⟩ := h
  have hw : within 1 13 ks.length = true := by
    rw [(le_of_kindsOf hks).2]
    exact within_iff.2 ⟨hlo, hhi⟩
  simp [State.noticeAck, hks, hw]

/-! ### NOTICE_MASK -/

/-- The pairs of NOTICE_MASK that decide a mark: action 1 masks, action 3 unmasks (R164). -/
def maskMarks (pairs : List (Byte × Byte)) : List (Nat × Bool) :=
  (pairs.filter fun p => p.2 = 1 || p.2 = 3).map fun p => (p.1.toNat, p.2 == 1)

theorem maskMarks_cons (p : Byte × Byte) (rest : List (Byte × Byte)) :
    maskMarks (p :: rest) =
      if p.2 = 1 ∨ p.2 = 3 then (p.1.toNat, p.2 == 1) :: maskMarks rest else maskMarks rest := by
  simp only [maskMarks, List.filter_cons, Bool.or_eq_true, decide_eq_true_eq]
  split <;> rfl

theorem maskAction_getLsbD (mask : BitVec 13) (k : Fin 13) (a : Fin 4) {j : Nat} (hj : j < 13) :
    (maskAction mask k a).getLsbD j =
      if k.val = j ∧ (a.val = 1 ∨ a.val = 3) then decide (a.val = 1) else mask.getLsbD j := by
  by_cases hk : k.val = j
  · subst hk
    unfold maskAction
    fin_cases a <;> simp [getLsbD_kindBit]
  · have off : (kindBit k).getLsbD j = false := by
      rw [getLsbD_kindBit, decide_eq_false_iff_not]
      exact fun h => hk h.symm
    rw [if_neg fun h => hk h.1]
    unfold maskAction
    split
    · rw [BitVec.getLsbD_or, off, Bool.or_false]
    · split
      · rw [BitVec.getLsbD_and, BitVec.getLsbD_not, off]
        simp [hj]
      · rfl

theorem maskActionsOf_of_le {pairs : List (Byte × Byte)} (h : ∀ p ∈ pairs, p.1.toNat ≤ 12 ∧ p.2.toNat ≤ 3) :
    ∃ ps, maskActionsOf pairs = some ps := by
  induction pairs with
  | nil => exact ⟨[], rfl⟩
  | cons p rest ih =>
    rw [List.forall_mem_cons] at h
    obtain ⟨⟨hkind, haction⟩, hrest⟩ := h
    obtain ⟨ps, hps⟩ := ih hrest
    have hk : belowOf 13 p.1.toNat = some ⟨p.1.toNat, by omega⟩ := belowOf_eq_some.2 rfl
    have ha : belowOf 4 p.2.toNat = some ⟨p.2.toNat, by omega⟩ := belowOf_eq_some.2 rfl
    exact ⟨_, by simp only [maskActionsOf, hk, ha, hps]; rfl⟩

/-- What the pairs of NOTICE_MASK are read as: kinds and actions in range, and the marks of their last pairs (R164). -/
theorem maskActionsOf_reads {pairs : List (Byte × Byte)} {ps : List (Fin 13 × Fin 4)}
    (h : maskActionsOf pairs = some ps) :
    (∀ p ∈ pairs, p.1.toNat ≤ 12 ∧ p.2.toNat ≤ 3) ∧ ps.length = pairs.length ∧
      ∀ (mask : BitVec 13) (j : Nat), j < 13 →
        (maskActions mask ps).getLsbD j = lastOf j (mask.getLsbD j) (maskMarks pairs) := by
  induction pairs generalizing ps with
  | nil =>
    obtain rfl : [] = ps := Option.some.inj h
    exact ⟨by simp, rfl, fun _ _ _ => rfl⟩
  | cons p rest ih =>
    obtain ⟨kind, action⟩ := p
    unfold maskActionsOf at h
    split at h
    next k a xs hk ha hxs =>
      obtain rfl : (k, a) :: xs = ps := Option.some.inj h
      rw [belowOf_eq_some] at hk ha
      obtain ⟨hle, hlen, hmask⟩ := ih hxs
      refine ⟨List.forall_mem_cons.2 ⟨⟨by dsimp only; omega, by dsimp only; omega⟩, hle⟩, by simp [hlen],
        fun mask j hj => ?_⟩
      have h1 : action = 1 ↔ a.val = 1 := by bv_omega
      have h3 : action = 3 ↔ a.val = 3 := by bv_omega
      rw [maskActions, hmask _ j hj, maskAction_getLsbD _ _ _ hj, maskMarks_cons]
      simp only [h1, h3, ← hk]
      by_cases hmark : a.val = 1 ∨ a.val = 3
      · have same : (action == 1) = decide (a.val = 1) := by
          rw [Bool.eq_iff_iff, beq_iff_eq, h1, decide_eq_true_eq]
        simp only [hmark, and_true, if_true, lastOf, List.foldl_cons, same]
      · simp only [hmark, and_false, if_false]
    next => cases h

/-- The operands of NOTICE_MASK that pass its checks (R164). -/
def MaskPasses (pairs : List (Byte × Byte)) : Prop :=
  1 ≤ pairs.length ∧ pairs.length ≤ 13 ∧ ∀ p ∈ pairs, p.1.toNat ≤ 12 ∧ p.2.toNat ≤ 3

theorem State.noticeMask_of_range (s : State) {pairs : List (Byte × Byte)} (h : ¬MaskPasses pairs) :
    s.noticeMask pairs = s.refuse .range := by
  unfold State.noticeMask
  split
  next ps hps =>
    obtain ⟨hle, hlen, -⟩ := maskActionsOf_reads hps
    rw [if_neg]
    rw [within_iff, hlen]
    exact fun ⟨hlo, hhi⟩ => h ⟨hlo, hhi, hle⟩
  next => rfl

theorem State.noticeMask_of_pass (s : State) {pairs : List (Byte × Byte)} {ps : List (Fin 13 × Fin 4)}
    (h : MaskPasses pairs) (hps : maskActionsOf pairs = some ps) :
    s.noticeMask pairs =
      (s.withNotices { s.notices with mask := maskActions s.notices.mask ps }).okWith
        (.noticeSet (maskActions s.notices.mask ps)) := by
  obtain ⟨hlo, hhi, -⟩ := h
  obtain ⟨-, hlen, -⟩ := maskActionsOf_reads hps
  have hw : within 1 13 ps.length = true := by
    rw [hlen]
    exact within_iff.2 ⟨hlo, hhi⟩
  simp [State.noticeMask, hps, hw]

/-- Settles O36: the sets bit by bit, over the operands read as kinds and actions. -/
theorem noticeCommands : Obligations.NoticeCommands := by
  refine ⟨State.alert_iff, fun tag kinds s hs => ⟨answers_of_perform rfl hs rfl,
    fun hbad => refuses_of_perform rfl hs (s.noticeAck_of_range hbad), fun hgood => ?_⟩, fun tag pairs s hs =>
      ⟨fun hbad => refuses_of_perform rfl hs (s.noticeMask_of_range hbad), fun hgood => ?_⟩⟩
  · obtain ⟨ks, hks, hmap⟩ := kindsOf_of_le hgood.2.2
    refine ⟨s.acknowledged ks, fun k hk => ?_, answers_of_perform rfl hs (s.noticeAck_of_pass hgood hks)⟩
    have named : (∀ x ∈ ks, x.val ≠ k) ↔ ∀ b ∈ kinds, b.toNat ≠ k := by
      rw [← List.forall_mem_map (f := fun x : Fin 13 => x.val) (P := (· ≠ k)), hmap, List.forall_mem_map]
    rw [s.acknowledged_getLsbD ks hk, named]
    rfl
  · obtain ⟨ps, hps⟩ := maskActionsOf_of_le hgood.2.2
    obtain ⟨-, -, hmask⟩ := maskActionsOf_reads hps
    exact ⟨maskActions s.notices.mask ps, fun k hk => hmask _ k hk,
      answers_of_perform rfl hs (s.noticeMask_of_pass hgood hps)⟩

end Sys2Proof.Machine

/-! Proofs of the statements about the device settings, the status and the answers of the reset commands. -/

namespace Sys2Proof.Machine

/-! ### One setting -/

/-- A pair is accepted exactly in the range of its setting, whatever the settings it is written to (R173). -/
theorem settingField_isSome (x : Settings) (ident : Nat) (value : Int) :
    (settingField x ident value).isSome = true ↔ InRange (settingRange ident) value := by
  unfold settingField settingRange
  split
  case h_6 =>
    change _ ↔ InRange (some (0, 1)) value
    rw [inRange_some]
    by_cases h0 : value = 0
    · simp [h0]
    by_cases h1 : value = 1
    · simp [h1]
    rw [if_neg h0, if_neg h1]
    simp only [Option.isSome_none, Bool.false_eq_true, false_iff]
    omega
  all_goals
    simp [keepIf_isSome, inRange_some, not_inRange_none]

/-- An accepted pair writes its setting and no other one (R173). -/
theorem settingField_value {x x' : Settings} {ident : Nat} {value : Int} (h : settingField x ident value = some x')
    {k : Nat} (hk : k < 8) : x'.value k = if ident = k then value else x.value k := by
  unfold settingField at h
  split at h
  case h_6 =>
    split at h
    next h0 =>
      obtain rfl := Option.some.inj h
      interval_cases k <;> simp [Settings.value, h0, Delivery.code]
    next =>
      split at h
      next h1 =>
        obtain rfl := Option.some.inj h
        interval_cases k <;> simp [Settings.value, h1, Delivery.code]
      next => cases h
  case h_9 => cases h
  all_goals
    obtain ⟨hrange, rfl⟩ := keepIf_eq_some.1 h
    rw [Bool.and_eq_true, decide_eq_true_eq, decide_eq_true_eq] at hrange
    obtain ⟨hlo, hhi⟩ := hrange
    interval_cases k <;> simp [Settings.value] <;> omega

/-! ### The pairs in list order -/

/-- The pairs as the numbers that `InRange` and `lastOf` speak of. -/
def settingValues (pairs : List (Byte × Half)) : List (Nat × Int) :=
  pairs.map fun p => (p.1.toNat, p.2.toInt)

/-- A list of pairs is accepted exactly when each of them is in range (R173). -/
theorem settingFields_isSome (x : Settings) (pairs : List (Byte × Half)) :
    (settingFields x pairs).isSome = true ↔ ∀ v ∈ settingValues pairs, InRange (settingRange v.1) v.2 := by
  induction pairs generalizing x with
  | nil => simp [settingFields, settingValues]
  | cons p rest ih =>
    have hcons : (∀ v ∈ settingValues (p :: rest), InRange (settingRange v.1) v.2) ↔
        (settingField x p.1.toNat p.2.toInt).isSome = true ∧
          ∀ v ∈ settingValues rest, InRange (settingRange v.1) v.2 := by
      rw [settingField_isSome]
      exact List.forall_mem_cons
    rw [hcons]
    cases h : settingField x p.1.toNat p.2.toInt with
    | none => simp [settingFields, h]
    | some x' => simpa [settingFields, h] using ih x'

/-- Accepted pairs leave in each setting the value of the last pair that names it (R173). -/
theorem settingFields_value {x x' : Settings} {pairs : List (Byte × Half)} (h : settingFields x pairs = some x')
    {k : Nat} (hk : k < 8) : x'.value k = lastOf k (x.value k) (settingValues pairs) := by
  induction pairs generalizing x with
  | nil =>
    obtain rfl : x = x' := by simpa [settingFields] using h
    rfl
  | cons p rest ih =>
    cases hp : settingField x p.1.toNat p.2.toInt with
    | none => simp [settingFields, hp] at h
    | some x₁ =>
      have hrest : settingFields x₁ rest = some x' := by simpa [settingFields, hp] using h
      calc x'.value k = lastOf k (x₁.value k) (settingValues rest) := ih hrest
        _ = lastOf k (if p.1.toNat = k then p.2.toInt else x.value k) (settingValues rest) := by
          rw [settingField_value hp hk]
        _ = lastOf k (x.value k) (settingValues (p :: rest)) := rfl

theorem Settings.related_iff {x : Settings} : x.related = true ↔ x.value 2 < x.value 1 ∧ x.value 7 + 8 ≤ x.value 6 := by
  simp only [Settings.related, Bool.and_eq_true, decide_eq_true_eq, Settings.value]
  omega

/-! ### The settings written -/

section

variable (s : State) (x : Settings)

/-- A mark has changed (R158). -/
def State.MarksChange : Prop :=
  x.pauseMark ≠ s.reports.pauseMark ∨ x.resumeMark ≠ s.reports.resumeMark

/-- The change of the marks sets back-pressure (R158). -/
def State.MarksSet : Prop :=
  s.MarksChange x ∧ x.pauseMark ≤ s.reports.occupancy

/-- The change of the marks clears back-pressure (R158). -/
def State.MarksClear : Prop :=
  s.MarksChange x ∧ ¬x.pauseMark ≤ s.reports.occupancy ∧ s.reports.occupancy ≤ x.resumeMark

variable {s x}

theorem State.writeSettings_of_set (h : s.MarksSet x) : s.writeSettings x = (s.storeSettings x).checkPause := by
  obtain ⟨hchange, hpause⟩ := h
  rw [State.writeSettings, if_neg (not_and_or.2 hchange), State.applyMarks]
  exact if_pos hpause

theorem State.writeSettings_of_clear (h : s.MarksClear x) :
    s.writeSettings x = (s.storeSettings x).checkResume.choose := by
  obtain ⟨hchange, hpause, hresume⟩ := h
  rw [State.writeSettings, if_neg (not_and_or.2 hchange), State.applyMarks]
  exact (if_neg hpause).trans (if_pos hresume)

theorem State.writeSettings_of_quiet (hset : ¬s.MarksSet x) (hclear : ¬s.MarksClear x) :
    s.writeSettings x = s.storeSettings x := by
  by_cases hchange : s.MarksChange x
  · have hpause : ¬x.pauseMark ≤ s.reports.occupancy := fun h => hset ⟨hchange, h⟩
    have hresume : ¬s.reports.occupancy ≤ x.resumeMark := fun h => hclear ⟨hchange, hpause, h⟩
    rw [State.writeSettings, if_neg (not_and_or.2 hchange), State.applyMarks]
    exact (if_neg hpause).trans (if_neg hresume)
  · rw [State.writeSettings, if_pos]
    exact ⟨of_not_not fun h => hchange (.inl h), of_not_not fun h => hchange (.inr h)⟩

/-- Clearing and setting exclude each other. -/
theorem State.MarksClear.not_set (h : s.MarksClear x) : ¬s.MarksSet x :=
  fun hset => h.2.1 hset.2

end

/-- Back-pressure at or above the pause mark is set, and REPORT_HIGH raised when it was not (R155). -/
theorem State.checkPause_of_le {s : State} (h : s.reports.pauseMark ≤ s.reports.occupancy) :
    s.checkPause.reports = { s.reports with backPressure := true } ∧
      s.checkPause.notices =
        if s.reports.backPressure = false then s.notices.raised .reportHigh else s.notices := by
  unfold State.checkPause
  cases hb : s.reports.backPressure
  · rw [if_pos (by simp [h])]
    exact ⟨rfl, rfl⟩
  · rw [if_neg (by simp)]
    exact ⟨by rw [← hb], rfl⟩

section

variable (s : State) (x : Settings)

theorem State.writeSettings_reports :
    (s.writeSettings x).reports =
        { s.reports with
          delivery := x.delivery, pauseMark := x.pauseMark, resumeMark := x.resumeMark,
          backPressure := (s.writeSettings x).reports.backPressure } ∧
      (s.MarksSet x → (s.writeSettings x).reports.backPressure = true) ∧
      (s.MarksClear x → (s.writeSettings x).reports.backPressure = false) ∧
      (¬s.MarksSet x → ¬s.MarksClear x → (s.writeSettings x).reports.backPressure = s.reports.backPressure) := by
  by_cases hset : s.MarksSet x
  · obtain ⟨reports, -⟩ := State.checkPause_of_le (s := s.storeSettings x) hset.2
    rw [State.writeSettings_of_set hset, reports]
    exact ⟨rfl, fun _ => rfl, fun h => absurd hset h.not_set, fun h => absurd hset h⟩
  · by_cases hclear : s.MarksClear x
    · have reports := (s.storeSettings x).checkResume_reports
      have cleared : (s.storeSettings x).reports.occupancy ≤ (s.storeSettings x).reports.resumeMark := hclear.2.2
      rw [if_pos cleared] at reports
      rw [State.writeSettings_of_clear hclear, (State.choose_frame _).2.2.2.2.2.2.2.1, reports]
      exact ⟨rfl, fun h => absurd h hset, fun _ => rfl, fun _ h => absurd hclear h⟩
    · rw [State.writeSettings_of_quiet hset hclear]
      exact ⟨rfl, fun h => absurd h hset, fun h => absurd h hclear, fun _ _ => rfl⟩

theorem State.writeSettings_notices :
    (s.MarksSet x ∧ s.reports.backPressure = false → (s.writeSettings x).notices = s.notices.raised .reportHigh) ∧
      (¬(s.MarksSet x ∧ s.reports.backPressure = false) → (s.writeSettings x).notices = s.notices) := by
  by_cases hset : s.MarksSet x
  · obtain ⟨-, notices⟩ := State.checkPause_of_le (s := s.storeSettings x) hset.2
    rw [State.writeSettings_of_set hset, notices]
    exact ⟨fun h => if_pos h.2, fun h => if_neg fun hb => h ⟨hset, hb⟩⟩
  · refine ⟨fun h => absurd h.1 hset, fun _ => ?_⟩
    by_cases hclear : s.MarksClear x
    · rw [State.writeSettings_of_clear hclear]
      simp [State.storeSettings]
    · rw [State.writeSettings_of_quiet hset hclear]
      rfl

/-- The engine is told only of back-pressure that is cleared (R158). -/
theorem State.writeSettings_engine :
    (s.MarksClear x → Chosen (s.storeSettings x) (s.writeSettings x)) ∧
      (¬s.MarksClear x → (s.writeSettings x).engine = (s.storeSettings x).engine) := by
  refine ⟨fun hclear => ?_, fun hclear => ?_⟩
  · rw [State.writeSettings_of_clear hclear]
    exact EngineFollows.chosen (.of_eq (by simp))
  · by_cases hset : s.MarksSet x
    · rw [State.writeSettings_of_set hset]
      simp
    · rw [State.writeSettings_of_quiet hset hclear]

theorem State.writeSettings_follows : EngineFollows (s.storeSettings x) (s.writeSettings x) := by
  by_cases hclear : s.MarksClear x
  · rw [State.writeSettings_of_clear hclear]
    exact .trans (.of_eq (by simp)) (State.choose_follows _)
  · exact .of_eq ((s.writeSettings_engine x).2 hclear)

/-- The blocks that own no mark hold what was stored (R173). -/
theorem State.writeSettings_owners :
    (s.writeSettings x).port = (s.storeSettings x).port ∧ (s.writeSettings x).banks = (s.storeSettings x).banks ∧
      (s.writeSettings x).window = (s.storeSettings x).window := by
  by_cases hset : s.MarksSet x
  · rw [State.writeSettings_of_set hset]
    simp
  · by_cases hclear : s.MarksClear x
    · rw [State.writeSettings_of_clear hclear]
      simp
    · rw [State.writeSettings_of_quiet hset hclear]
      exact ⟨rfl, rfl, rfl⟩

/-- Beside the settings that each block owns, back-pressure and the engine's state alone may have changed (R173). -/
theorem State.writeSettings_keeps :
    (s.writeSettings x).reports =
        { s.reports with
          delivery := (s.writeSettings x).reports.delivery, pauseMark := (s.writeSettings x).reports.pauseMark
          resumeMark := (s.writeSettings x).reports.resumeMark
          backPressure := (s.writeSettings x).reports.backPressure } ∧
      (s.writeSettings x).port =
        { s.port with hotLimit := (s.writeSettings x).port.hotLimit, coolLimit := (s.writeSettings x).port.coolLimit } ∧
      (s.writeSettings x).banks = { s.banks with holdLimit := (s.writeSettings x).banks.holdLimit } ∧
      (s.writeSettings x).window = { s.window with graceSetting := (s.writeSettings x).window.graceSetting } ∧
      (s.writeSettings x).engine =
        { s.engine with
          selectorTimeout := (s.writeSettings x).engine.selectorTimeout, state := (s.writeSettings x).engine.state } := by
  obtain ⟨port, banks, window⟩ := s.writeSettings_owners x
  obtain ⟨pressure, reports⟩ : ∃ b, (s.writeSettings x).reports =
      { s.reports with
        delivery := x.delivery, pauseMark := x.pauseMark, resumeMark := x.resumeMark, backPressure := b } :=
    ⟨_, (s.writeSettings_reports x).1⟩
  obtain ⟨state, engine⟩ : ∃ e, (s.writeSettings x).engine = { (s.storeSettings x).engine with state := e } :=
    ⟨_, (s.writeSettings_follows x).2.1⟩
  rw [port, banks, window, reports, engine]
  exact ⟨rfl, rfl, rfl, rfl, rfl⟩

theorem State.writeSettings_eq :
    s.writeSettings x =
      { s with
        engine := (s.writeSettings x).engine, port := (s.writeSettings x).port, banks := (s.writeSettings x).banks
        window := (s.writeSettings x).window, reports := (s.writeSettings x).reports
        notices := (s.writeSettings x).notices } := by
  unfold State.writeSettings State.applyMarks
  (repeat' split) <;> apply State.ext_fields <;> simp [State.storeSettings]

/-- The settings are held as they were written (R173). -/
theorem State.writeSettings_settings : (s.writeSettings x).settings = x := by
  obtain ⟨port, banks, window⟩ := s.writeSettings_owners x
  obtain ⟨reports, -⟩ := s.writeSettings_reports x
  obtain ⟨-, engine, -⟩ := s.writeSettings_follows x
  rw [State.settings, port, banks, window, engine, reports]
  rfl

end

/-! ### SETTINGS_WRITE -/

/-- The operands of SETTINGS_WRITE that pass its checks (R173). -/
def State.SettingsPass (s : State) (pairs : List (Byte × Half)) : Prop :=
  1 ≤ pairs.length ∧ pairs.length ≤ 8 ∧ (∀ v ∈ settingValues pairs, InRange (settingRange v.1) v.2) ∧
    lastOf 2 (s.settings.value 2) (settingValues pairs) < lastOf 1 (s.settings.value 1) (settingValues pairs) ∧
    lastOf 7 (s.settings.value 7) (settingValues pairs) + 8 ≤ lastOf 6 (s.settings.value 6) (settingValues pairs)

/-- Settings that were formed are related exactly when the values of their last pairs are. -/
theorem Settings.related_of_fields {y x : Settings} {pairs : List (Byte × Half)} (h : settingFields y pairs = some x) :
    x.related = true ↔
      lastOf 2 (y.value 2) (settingValues pairs) < lastOf 1 (y.value 1) (settingValues pairs) ∧
        lastOf 7 (y.value 7) (settingValues pairs) + 8 ≤ lastOf 6 (y.value 6) (settingValues pairs) := by
  rw [Settings.related_iff, settingFields_value h (by omega), settingFields_value h (by omega),
    settingFields_value h (by omega), settingFields_value h (by omega)]

theorem State.settingsWrite_of_range (s : State) {pairs : List (Byte × Half)} (h : ¬s.SettingsPass pairs) :
    s.settingsWrite pairs = s.refuse .range := by
  unfold State.settingsWrite
  split
  next hn =>
    obtain ⟨hlo, hhi⟩ := within_iff.1 hn
    split
    next x hx =>
      rw [if_neg]
      intro hrelated
      have hrange := (settingFields_isSome s.settings pairs).1 (by simp [hx])
      exact h ⟨hlo, hhi, hrange, (Settings.related_of_fields hx).1 hrelated⟩
    next => rfl
  next => rfl

theorem State.settingsWrite_of_pass (s : State) {pairs : List (Byte × Half)} (h : s.SettingsPass pairs) :
    ∃ x, settingFields s.settings pairs = some x ∧ s.settingsWrite pairs = (s.writeSettings x).ok := by
  obtain ⟨hlo, hhi, hrange, hrelated⟩ := h
  obtain ⟨x, hx⟩ := Option.isSome_iff_exists.1 ((settingFields_isSome s.settings pairs).2 hrange)
  refine ⟨x, hx, ?_⟩
  simp [State.settingsWrite, within_iff.2 ⟨hlo, hhi⟩, hx, (Settings.related_of_fields hx).2 hrelated]

/-- Settles O37: the pairs form a set of settings as a whole; once stored, the marks that changed are applied in one of
three ways. -/
theorem settingsWriteStoresTheValues : Obligations.SettingsWriteStoresTheValues := by
  intro tag pairs s hs
  refine ⟨fun hbad => refuses_of_perform rfl hs (s.settingsWrite_of_range hbad), fun hgood => ?_⟩
  obtain ⟨x, hx, hd⟩ := s.settingsWrite_of_pass hgood
  have formed : ∀ k, k < 8 → lastOf k (s.settings.value k) (settingValues pairs) = x.value k := fun k hk =>
    (settingFields_value hx hk).symm
  have pause : lastOf 6 (s.settings.value 6) (settingValues pairs) = x.pauseMark := formed 6 (by omega)
  have resume : lastOf 7 (s.settings.value 7) (settingValues pairs) = x.resumeMark := formed 7 (by omega)
  refine answersWith_of_perform rfl hs hd fun l => ?_
  simp only [settingValues] at pause resume formed
  simp only [pause, resume, ne_eq, Nat.cast_inj, Nat.cast_le]
  obtain ⟨-, sets, clears, stays⟩ := s.writeSettings_reports x
  obtain ⟨raised, unraised⟩ := s.writeSettings_notices x
  obtain ⟨chosen, unchosen⟩ := s.writeSettings_engine x
  obtain ⟨flight, -, state⟩ := s.writeSettings_follows x
  obtain ⟨reports, port, banks, window, engine⟩ := s.writeSettings_keeps x
  refine ⟨fun k hk => ?_, sets, clears, stays, raised, unraised, reports, port, banks, window, engine, fun h => ?_,
    fun h => ?_, flight, congrArg (State.withLink · l) (s.writeSettings_eq x)⟩
  · rw [formed k hk]
    exact congrArg (Settings.value · k) (s.writeSettings_settings x)
  · have timeout : (s.writeSettings x).engine.selectorTimeout = x.selectorTimeout :=
      congrArg Settings.selectorTimeout (s.writeSettings_settings x)
    have told := chosen h
    change Chosen { s with engine := { s.engine with selectorTimeout := (s.writeSettings x).engine.selectorTimeout } } _
    rw [timeout]
    exact told
  · rcases h with h | h
    · have stored := congrArg Engine.state (unchosen h)
      exact stored
    · exact state h

/-! ### SETTINGS_READ and STATUS_READ -/

theorem State.sweepSpan_eq (s : State) :
    s.sweepSpan = if s.engine.state = .idle ∨ s.engine.state = .waiting then none else s.context.map (·.span) := by
  unfold State.sweepSpan State.sweepInFlight
  cases s.engine.state <;> rfl

/-- Settles O38: both reads answer fields of the owning blocks; the sweep's span alone is a case distinction. -/
theorem settingsAndStatusAreRead : Obligations.SettingsAndStatusAreRead := by
  intro tag s hs
  refine ⟨answers_of_perform rfl hs rfl, ?_⟩
  rw [← State.sweepSpan_eq]
  exact answers_of_perform rfl hs rfl

/-! ### The answers of the resets -/

/-- The answer that a taken command leaves (R169, R171). -/
theorem exec_answered {i : Instr} {tag : Byte} {c : LinkCommand} {s d : State} {st : Status} {res : Results}
    (hi : i.asLink = some (tag, c)) (hs : s.linkFree = true)
    (hd : s.perform tag c = { state := d, status := st, results := res }) :
    ∃ t, exec i s = .next t ∧ t = { d with link := t.link } ∧
      Answered s t (dispatcherAfter c) { tag := tag, status := st, code := c.name.code, results := res } := by
  obtain ⟨t, tag', c', hi', hexec, hkeeps, hanswered⟩ := answers_of_perform hi hs hd
  cases hi.symm.trans hi'
  exact ⟨t, hexec, hkeeps, hanswered⟩

/-- Settles O39: a reset command is answered like any other, with its own state of the dispatcher. -/
theorem resetCommandsAreAnsweredFirst : Obligations.ResetCommandsAreAnsweredFirst :=
  fun tag _ hs => ⟨exec_answered (tag := tag) (c := .restart) rfl hs rfl,
    exec_answered (tag := tag) (c := .fullReset) rfl hs rfl⟩

end Sys2Proof.Machine

/-! Proof of the statement about the effect of RESTART and FULL_RESET, which follows the sending of their OK. -/

namespace Sys2Proof.Machine

/-! ### The effect of RESTART -/

/-- The grace of a CLOSING window has expired. -/
def Window.GraceOver (w : Window) : Prop :=
  w.state = .closing ∧ w.grace = .expired

section

variable (s : State)

theorem State.restart_of_opened (h : s.window.state = .opened) : s.restart = s.restartBlocks.startCycle.choose := by
  simp only [State.restart, h]

theorem State.restart_of_graceOver (h : s.window.GraceOver) : s.restart = s.restartBlocks.enterClosed.choose := by
  obtain ⟨hstate, hgrace⟩ := h
  simp only [State.restart, hstate, hgrace, if_true]

theorem State.restart_of_other (h : s.window.state ≠ .opened) (hg : ¬s.window.GraceOver) :
    s.restart = s.restartBlocks.choose := by
  unfold State.restart
  cases hw : s.window.state with
  | opened => exact absurd hw h
  | closed => rfl
  | closing => exact if_neg fun hgrace => hg ⟨hw, hgrace⟩

theorem Window.GraceOver.not_opened {w : Window} (h : w.GraceOver) : w.state ≠ .opened := by
  rw [h.1]
  simp

/-- A RESTART makes one of three states of the blocks it has reset (R10, R14, R32). -/
theorem State.restart_cases {P : State → Prop} (opened : s.window.state = .opened → P s.restartBlocks.startCycle.choose)
    (closes : s.window.GraceOver → P s.restartBlocks.enterClosed.choose)
    (other : s.window.state ≠ .opened → ¬s.window.GraceOver → P s.restartBlocks.choose) : P s.restart := by
  by_cases h : s.window.state = .opened
  · rw [s.restart_of_opened h]
    exact opened h
  · by_cases hg : s.window.GraceOver
    · rw [s.restart_of_graceOver hg]
      exact closes hg
    · rw [s.restart_of_other h hg]
      exact other h hg

theorem State.restart_plan :
    s.restart.plan =
      if s.window.state = .opened ∧ s.anyEnabled = true then s.plan.restarted.begun else s.plan.restarted := by
  refine s.restart_cases (P := fun t => t.plan =
    if s.window.state = .opened ∧ s.anyEnabled = true then s.plan.restarted.begun else s.plan.restarted)
    (fun h => ?_) (fun h => ?_) fun h _ => ?_
  · rw [(State.choose_frame _).1, State.startCycle_plan]
    simp only [h, true_and]
    rfl
  · rw [if_neg fun hno => h.not_opened hno.1]
    simp only [State.choose_frame, State.enterClosed_frame]
    rfl
  · rw [if_neg fun hno => h hno.1]
    simp only [State.choose_frame]
    rfl

/-- A RESTART keeps the tables of the plan and its cursor, and discards the ENDING cycles (R14). -/
theorem State.restart_tables :
    s.restart.plan.entries = s.plan.entries ∧ s.restart.plan.cursor = s.plan.cursor ∧
      s.restart.plan.groups = s.plan.groups ∧ s.restart.plan.ending = [] := by
  rw [s.restart_plan]
  split <;> exact ⟨rfl, rfl, rfl, rfl⟩

/-- A RESTART closes a window whose grace is over, and leaves any other (R32, R35). -/
theorem State.restart_window :
    (s.window.GraceOver → s.restart.window = { s.window with state := .closed, grace := .stopped } ∧
      s.restart.reports = s.reports.restarted.edged s.window.closedEdge) ∧
    (¬s.window.GraceOver → s.restart.window = s.window ∧ s.restart.reports = s.reports.restarted) := by
  refine s.restart_cases (P := fun t =>
    (s.window.GraceOver → t.window = { s.window with state := .closed, grace := .stopped } ∧
      t.reports = s.reports.restarted.edged s.window.closedEdge) ∧
    (¬s.window.GraceOver → t.window = s.window ∧ t.reports = s.reports.restarted))
    (fun h => ⟨fun hg => absurd h hg.not_opened, fun _ => ?_⟩) (fun h => ⟨fun _ => ?_, fun hg => absurd h hg⟩)
    fun _ hg => ⟨fun h => absurd h hg, fun _ => ?_⟩
  · simp only [State.choose_frame, State.startCycle_frame]
    exact ⟨rfl, rfl⟩
  · obtain ⟨window, reports, -⟩ := s.restartBlocks.enterClosed_closed
    simp only [State.choose_frame]
    exact ⟨window, reports⟩
  · simp only [State.choose_frame]
    exact ⟨rfl, rfl⟩

/-- A RESTART that closes the window raises WINDOW_EDGE over the pending set of a reset (R33, R165). -/
theorem State.restart_gain :
    (s.window.GraceOver → NoticesGain s.restartBlocks s.restart [.windowEdge]) ∧
      (¬s.window.GraceOver → NoticesGain s.restartBlocks s.restart []) := by
  have same : ∀ {t : State}, t.notices = s.restartBlocks.notices → t.reports = s.restartBlocks.reports →
      NoticesGain s.restartBlocks t [] := fun hn hr => .of_eq hn (by rw [hr]; exact id)
  refine s.restart_cases (P := fun t =>
    (s.window.GraceOver → NoticesGain s.restartBlocks t [.windowEdge]) ∧
      (¬s.window.GraceOver → NoticesGain s.restartBlocks t []))
    (fun h => ⟨fun hg => absurd h hg.not_opened, fun _ => same (by simp) (by simp)⟩)
    (fun h => ⟨fun _ => ?_, fun hg => absurd h hg⟩) fun _ hg => ⟨fun h => absurd h hg, fun _ => same (by simp) (by simp)⟩
  obtain ⟨-, -, gain⟩ := s.restartBlocks.enterClosed_closed
  exact gain.of_congr rfl rfl (by simp) (by simp)

theorem State.restart_mask : s.restart.notices.mask = s.notices.mask := by
  obtain ⟨closes, stays⟩ := s.restart_gain
  by_cases hg : s.window.GraceOver
  · exact (closes hg).1
  · exact (stays hg).1

theorem State.restart_chosen : Chosen s.restartBlocks s.restart := by
  refine s.restart_cases (fun _ => ?_) (fun _ => ?_) fun _ _ => ?_
  · exact s.restartBlocks.startCycle_follows.chosen
  · exact EngineFollows.chosen (.of_eq (by simp))
  · exact s.restartBlocks.choose_chosen

/-- A RESTART leaves an engine that has chosen, and nothing more of it but the timeout setting (R63). -/
theorem State.restart_engine :
    s.restart.engine =
      { Engine.initial with
        selectorTimeout := s.engine.selectorTimeout
        state := if s.restart.sourceExists = true then .waiting else .idle } :=
  s.restart_chosen.2 rfl

/-- The blocks that the window and the plan do not reach hold what the reset made of them. -/
theorem State.restart_blocks :
    s.restart.port = s.port.restarted ∧ s.restart.banks = s.banks.reset s.banks.holdLimit ∧
      s.restart.baselines = s.baselines ∧ s.restart.analyser = s.analyser.restarted ∧
      s.restart.conditions = s.conditions.restarted ∧ s.restart.link = s.link.restarted ∧
      s.restart.outputs = s.outputs ∧ s.restart.freeCount = s.freeCount ∧ s.restart.pending = s.pending := by
  refine s.restart_cases (P := fun t =>
    t.port = s.port.restarted ∧ t.banks = s.banks.reset s.banks.holdLimit ∧
      t.baselines = s.baselines ∧ t.analyser = s.analyser.restarted ∧
      t.conditions = s.conditions.restarted ∧ t.link = s.link.restarted ∧
      t.outputs = s.outputs ∧ t.freeCount = s.freeCount ∧ t.pending = s.pending)
    (fun _ => ?_) (fun _ => ?_) fun _ _ => ?_
  · simp only [State.choose_frame, State.startCycle_frame]
    exact ⟨rfl, rfl, rfl, rfl, rfl, rfl, rfl, rfl, rfl⟩
  · simp only [State.choose_frame, State.enterClosed_frame]
    exact ⟨rfl, rfl, rfl, rfl, rfl, rfl, rfl, rfl, rfl⟩
  · simp only [State.choose_frame]
    exact ⟨rfl, rfl, rfl, rfl, rfl, rfl, rfl, rfl, rfl⟩

/-- The pending set of a RESTART: RESTARTED and the level kinds that hold, of which back-pressure has been cleared (R165). -/
theorem State.restartBlocks_pending (k : NoticeKind) :
    k.isIn s.restartBlocks.notices.pending = true ↔
      k = .restarted ∨ (k = .thermal ∧ s.port.gate = .hot) ∨ (k = .clockLost ∧ s.window.reference = .lost) := by
  change ((kindBit NoticeKind.restarted.number ||| State.levelsHolding _).getLsbD k.number.val) = true ↔ _
  rw [BitVec.getLsbD_or, Bool.or_eq_true, State.levelsHolding_getLsbD, getLsbD_kindBit, decide_eq_true_eq]
  cases k <;> simp [State.HoldsLevel, NoticeKind.number, Port.restarted, Reports.restarted]

theorem State.restart_pending (k : NoticeKind) :
    k.isIn s.restart.notices.pending = true ↔
      k = .restarted ∨ (k = .thermal ∧ s.port.gate = .hot) ∨ (k = .clockLost ∧ s.window.reference = .lost) ∨
        (k = .windowEdge ∧ s.window.state = .closing ∧ s.window.grace = .expired) ∨
        (k = .reportHigh ∧ s.restart.reports.backPressure = true) := by
  obtain ⟨closes, stays⟩ := s.restart_gain
  have cleared : s.restartBlocks.reports.backPressure = false := rfl
  by_cases hg : s.window.GraceOver
  · rw [(closes hg).2, s.restartBlocks_pending, List.mem_singleton, cleared]
    have hg' : s.window.state = .closing ∧ s.window.grace = .expired := hg
    simp only [hg', and_self, and_true, true_and, or_assoc]
  · rw [(stays hg).2, s.restartBlocks_pending, cleared]
    have hg' : ¬(s.window.state = .closing ∧ s.window.grace = .expired) := hg
    simp only [List.not_mem_nil, hg', and_false, false_or, true_and, or_assoc]

end

/-! ### The effect of FULL_RESET -/

/-- The notices of a FULL_RESET: of the level kinds CLOCK_LOST alone can hold (R162, R165). -/
theorem fullReset_notices (r : Reference) :
    Notices.mk (kindBit NoticeKind.restarted.number |||
      (0 ||| 0 ||| (if (r == .lost) = true then kindBit NoticeKind.clockLost.number else 0))) defaultMask =
      { pending := if r = .lost then 0x1001 else 1, mask := 6 } := by
  cases r <;> decide

theorem State.fullReset_eq (s : State) :
    s.fullReset =
      { s with
        plan := Plan.initial
        window := s.window.fullyReset
        engine := Engine.initial, port := Port.initial
        banks :=
          { Banks.initial with
            a := { Bank.initial with sums := s.banks.a.sums }, b := { Bank.initial with sums := s.banks.b.sums } }
        baselines := Baselines.initial, analyser := Analyser.initial, conditions := Conditions.initial
        reports := Reports.initial
        notices := { pending := if s.window.reference = .lost then 0x1001 else 1, mask := 6 }
        link := s.link.fullyReset } := by
  apply State.ext_fields
  case h10 =>
    exact fullReset_notices s.window.reference
  all_goals rfl

/-! ### FRAME_SENT of the OK -/

theorem exec_frameSent_reset {s : State} {r : Response} {k : ResetCommand} (ht : s.link.transmitter = some (.response r))
    (hd : s.link.dispatcher = .resetPending k) (hb : s.link.buffer = none) :
    exec .frameSent s = .next ((s.setTransmitter none).resetEffect k).pump := by
  have sent : s.frameSent = ((s.setTransmitter none).transmitted (.response r)).pump := by
    rw [State.frameSent, ht]
  have effect : (s.setTransmitter none).transmitted (.response r) = (s.setTransmitter none).resetEffect k := by
    simp [State.transmitted, State.setTransmitter, hd, hb]
  change Host.Outcome.next s.frameSent = _
  rw [sent, effect]

/-- Settles O40: the reset acts block by block on the state whose transmitter has become IDLE; over the blocks that
RESTART leaves, the window and the plan act once more. -/
theorem resetTakesEffectAfterItsResponse : Obligations.ResetTakesEffectAfterItsResponse := by
  intro s r k ht hd hb
  cases k with
  | fullReset =>
    exact ⟨_, exec_frameSent_reset ht hd hb, fun h => (nomatch h), fun _ => (State.fullReset_eq _).trans rfl⟩
  | restart =>
    refine ⟨(s.setTransmitter none).restart, exec_frameSent_reset ht hd hb, fun _ => ?_, fun h => (nomatch h)⟩
    have plan : (s.setTransmitter none).restart.plan =
        if s.window.state = .opened ∧ s.anyEnabled = true then s.plan.restarted.begun else s.plan.restarted :=
      (s.setTransmitter none).restart_plan
    obtain ⟨entries, cursor, groups, ending⟩ := State.restart_tables (s.setTransmitter none)
    obtain ⟨closes, stays⟩ := (s.setTransmitter none).restart_window
    obtain ⟨port, banks, baselines, analyser, conditions, link, outputs, freeCount, pending⟩ :=
      (s.setTransmitter none).restart_blocks
    refine ⟨entries, cursor, groups, ending, fun h => ?_, fun h he => ?_, stays, fun h hg => closes ⟨h, hg⟩,
      State.restart_engine _, port, ?_, ?_, ?_, ?_, ?_, baselines, analyser, conditions, State.restart_mask _,
      State.restart_pending _, outputs, freeCount, pending, ?_⟩
    · rw [plan, if_neg (not_and_or.2 (h.imp_right (by simp)))]
      exact ⟨rfl, rfl⟩
    · rw [plan, if_pos ⟨h, he⟩]
      exact ⟨_, rfl, rfl, rfl, rfl, rfl⟩
    · rw [banks]; rfl
    · rw [banks]; rfl
    · rw [banks]; rfl
    · rw [banks]; rfl
    · rw [banks]; rfl
    · rw [link]; rfl

end Sys2Proof.Machine

/-! Proof of the statement about FRAME_SENT and the transmit arbiter: what each frame leaves when it has been sent, what
the arbiter grants next, and what the dispatcher takes around it. -/

namespace Sys2Proof.Machine

/-! ### A frame that has been sent -/

section

variable {s : State}

theorem exec_frameSent_of_idle (h : s.link.transmitter = none) : exec .frameSent s = .next s := by
  have sent : s.frameSent = s := by rw [State.frameSent, h]
  exact congrArg Host.Outcome.next sent

theorem exec_frameSent_of_frame {f : OutFrame} (h : s.link.transmitter = some f) {t : State}
    (ht : (s.setTransmitter none).transmitted f = t) : exec .frameSent s = .next t.pump := by
  have sent : s.frameSent = t.pump := by rw [State.frameSent, h, ← ht]
  exact congrArg Host.Outcome.next sent

/-- A RESPONSE tells nobody, but for the OK of a pending reset (R175). -/
theorem State.transmitted_response (r : Response)
    (h : (∀ k, s.link.dispatcher ≠ .resetPending k) ∨ s.link.buffer ≠ none) : s.transmitted (.response r) = s := by
  unfold State.transmitted
  cases hd : s.link.dispatcher with
  | ready => rfl
  | answering => rfl
  | resetPending k =>
    cases hb : s.link.buffer with
    | some r' => rfl
    | none => exact (h.elim (fun hno => hno k hd) fun hno => hno hb).elim

theorem State.transmitted_exported (f : ExportFrame) : s.transmitted (.exported f) = s.exportSent f :=
  rfl

section

variable {f : ExportFrame} {x : ExportRecord} (hstate : (s.bank f.bank).state = .exporting)
  (hx : (s.bank f.bank).exporting = some x) (hsending : x.sending = true)

include hstate hx hsending

theorem State.exportSent_of_more (h : f.last = false) :
    s.exportSent f = s.setBank f.bank { s.bank f.bank with exporting := some { x with sending := false } } := by
  simp [State.exportSent, hstate, hx, hsending, h]

theorem State.exportSent_of_last (h : f.last = true) : s.exportSent f = s.backToHeld f.bank := by
  simp [State.exportSent, hstate, hx, hsending, h]

end

/-- A frame of a TRACE_EXPORT that has ended tells no bank anything (R95). -/
theorem State.exportSent_of_ended {f : ExportFrame}
    (h : (s.bank f.bank).state ≠ .exporting ∨ (s.bank f.bank).exporting = none ∨
      ∃ x, (s.bank f.bank).exporting = some x ∧ x.sending = false) : s.exportSent f = s := by
  unfold State.exportSent
  split
  next x hstate hx =>
    have quiet : x.sending = false := by
      rcases h with h | h | ⟨y, hy, hq⟩
      · exact absurd hstate h
      · cases h.symm.trans hx
      · cases hy.symm.trans hx
        exact hq
    simp [quiet]
  next => rfl

theorem State.backToHeld_of_kept {n : BankName} (h : (s.bank n).releasePending = false) :
    s.backToHeld n = s.setBank n { s.bank n with state := .held, reanalysis := .idle, exporting := none } := by
  simp [State.backToHeld, h]

theorem State.backToHeld_of_pending {n : BankName} (h : (s.bank n).releasePending = true) :
    s.backToHeld n = s.freeBank n := by
  simp [State.backToHeld, h]

/-! ### The arbiter -/

theorem State.grant_of_busy (h : s.link.transmitter ≠ none) : s.grant = s := by
  unfold State.grant
  split
  next => rfl
  next hn => exact absurd hn h

section

variable (h : s.link.transmitter = none)

include h

theorem State.grant_of_response {r : Response} (hb : s.link.buffer = some r) : s.grant = s.grantResponse r := by
  simp only [State.grant, h, hb]

variable (hb : s.link.buffer = none)

include hb

theorem State.grant_of_export {f : ExportFrame} (hf : s.exportOffer = some f) : s.grant = s.grantExport f := by
  simp only [State.grant, h, hb, hf]

theorem State.grant_of_report (hf : s.exportOffer = none) :
    s.grant = if s.reportOffered then s.grantReport else s := by
  simp only [State.grant, h, hb, hf]

end

theorem State.grantExport_keeps (f : ExportFrame) :
    (s.grantExport f).link = { s.link with transmitter := some (.exported f) } ∧
      s.grantExport f = { s with banks := (s.grantExport f).banks, link := (s.grantExport f).link } := by
  refine ⟨?_, ?_⟩
  · simp [State.grantExport, State.setTransmitter]
  · apply State.ext_fields <;> simp [State.grantExport, State.setTransmitter]

theorem State.reportOffered_iff : s.reportOffered = true ↔ s.reports.delivery = .stream ∧ s.reports.records ≠ [] := by
  simp [State.reportOffered]

/-- A REPORT frame takes the eight oldest records under the report sequence (R156). -/
theorem State.grantReport_takes (h : s.reports.records ≠ []) :
    s.grantReport.link =
        { s.link with transmitter := some (.report s.reports.sequence (s.reports.records.take 8)) } ∧
      s.grantReport.reports =
        { s.reports with
          records := s.reports.records.drop 8, sequence := s.reports.sequence + 1
          backPressure :=
            if s.reports.occupancy - 8 ≤ s.reports.resumeMark then false else s.reports.backPressure } ∧
      Chosen s s.grantReport ∧
      s.grantReport = { s with reports := s.grantReport.reports, engine := s.grantReport.engine, link := s.grantReport.link } := by
  obtain ⟨u, hu⟩ : ∃ u, u = s.withReports { s.reports with sequence := nextByte s.reports.sequence } := ⟨_, rfl⟩
  have granted : s.grantReport =
      (u.takeRecords 8).setTransmitter (some (.report s.reports.sequence (s.reports.records.take 8))) := by
    rw [hu]
    rfl
  obtain ⟨chosen, reports⟩ := State.takeRecords_of_ne_nil (s := u) (by rw [hu]; exact h) 8
  rw [granted]
  refine ⟨?_, ?_, ?_, ?_⟩
  · simp [State.setTransmitter, hu]
  · refine Eq.trans ?_ (reports.trans (by rw [hu]; rfl))
    simp [State.setTransmitter]
  · rw [hu] at chosen ⊢
    exact chosen
  · apply State.ext_fields <;> simp [State.setTransmitter, hu]

/-! ### The offered EXPORT frame -/

/-- The levels that the next frame of a TRACE_EXPORT carries (R89, R90). -/
def ExportRecord.levelCount (x : ExportRecord) : Nat :=
  if x.cancel = true then 0
  else if x.start + x.count - x.nextBin < 448 then x.start + x.count - x.nextBin else 448

theorem ExportRecord.frame_eq (x : ExportRecord) (n : BankName) (b : Bank) (span : Span) :
    x.frame n b span =
      { tag := x.tag, span := span, bank := n, index := x.nextIndex, firstBin := x.nextBin,
        levels := (List.range x.levelCount).map fun j => (b.sums.read (x.nextBin + j)).toNat / b.accepted,
        last := x.cancel || decide (x.start + x.count - x.nextBin ≤ 448), cancelled := x.cancel } := by
  unfold ExportRecord.frame ExportRecord.levelCount
  cases hc : x.cancel
  · have count : x.frameLevels =
        if x.start + x.count - x.nextBin < 448 then x.start + x.count - x.nextBin else 448 := by
      unfold ExportRecord.frameLevels Config.exportLevels
      split <;> omega
    have final : x.start + x.count ≤ x.nextBin + x.frameLevels ↔ x.start + x.count - x.nextBin ≤ 448 := by
      rw [count]
      split <;> omega
    simp only [Bool.false_eq_true, if_false, Bool.false_or, decide_eq_decide.2 final]
    rw [count]
    rfl
  · rfl

theorem ExportRecord.frame_levels_length (x : ExportRecord) (n : BankName) (b : Bank) (span : Span) :
    (x.frame n b span).levels.length = x.levelCount := by
  rw [x.frame_eq]
  simp

theorem State.bankOffer_of_idle {n : BankName} (h : (s.bank n).state ≠ .exporting) : s.bankOffer n = none := by
  unfold State.bankOffer
  split
  next hstate _ _ => exact absurd hstate h
  next => rfl

theorem State.bankOffer_of_exporting {n : BankName} {x : ExportRecord} {c : SweepContext}
    (h : (s.bank n).state = .exporting) (hx : (s.bank n).exporting = some x) (hc : (s.bank n).context = some c)
    (hq : x.sending = false) : s.bankOffer n = some (x.frame n (s.bank n) c.span) := by
  simp [State.bankOffer, h, hx, hc, hq]

/-- One bank at most offers a frame, whichever it is (R171). -/
theorem State.exportOffer_of_one {n : BankName} {f : ExportFrame} (h : s.bankOffer n = some f)
    (hother : s.bankOffer (otherBank n) = none) : s.exportOffer = some f := by
  cases n with
  | a => simp [State.exportOffer, h]
  | b =>
    have ha : s.bankOffer .a = none := hother
    simp [State.exportOffer, h, ha]

theorem State.exportBegins_of_exporting {f : ExportFrame} {x : ExportRecord} (hx : (s.bank f.bank).exporting = some x) :
    s.exportBegins f =
      s.setBank f.bank
        { s.bank f.bank with
          exporting := some
            { x with nextBin := x.nextBin + f.levels.length, nextIndex := x.nextIndex + 1, sending := true } } := by
  simp [State.exportBegins, hx]

/-! ### The dispatcher around the grant -/

theorem State.dispatch_of_none (h : s.link.dispatcher ≠ .ready ∨ s.link.queue = []) : s.dispatch = s := by
  unfold State.dispatch
  split
  next hd hq =>
    rcases h with h | h
    · exact absurd hd h
    · cases h.symm.trans hq
  next => rfl

theorem State.dispatch_takes {f : CommandFrame} {rest : List CommandFrame} (hd : s.link.dispatcher = .ready)
    (hq : s.link.queue = f :: rest) : TakesHead s s.dispatch f rest := by
  have taken : s.dispatch = (s.withLink { s.link with queue := rest }).runFrame f := by
    simp only [State.dispatch, hd, hq]
  obtain ⟨d, next, r, decides, link, answered⟩ := (s.withLink { s.link with queue := rest }).runFrame_decides f
  refine ⟨d, next, r, decides, ?_⟩
  rw [taken, answered, State.answer, link]
  rfl

end

/-- Settles O41: what FRAME_SENT tells, what the arbiter grants and what the dispatcher takes, each by its branches. -/
theorem frameSentLetsTheArbiterGrant : Obligations.FrameSentLetsTheArbiterGrant := by
  intro s
  refine ⟨exec_frameSent_of_idle, fun r ht h => ?_, fun q l ht => ?_, fun f x ht hstate hx hsending => ⟨fun hl => ?_,
    fun hl hp => ?_, fun hl hp => ?_⟩, fun f ht h => ?_, State.grant_of_busy, fun r ht hb => ?_, fun f ht hb hf => ?_,
    fun n x c ht hb hstate hx hc hq hother => ?_, fun ht hb hf hd hr => ?_, fun ht hb hf h => ?_, fun h => ?_,
    fun hd hq => ?_, State.dispatch_of_none, fun f rest hd hq => State.dispatch_takes hd hq⟩
  · exact exec_frameSent_of_frame ht (State.transmitted_response (s := s.setTransmitter none) r h)
  · exact exec_frameSent_of_frame ht rfl
  · exact exec_frameSent_of_frame ht (State.transmitted_exported f |>.trans
      (State.exportSent_of_more (s := s.setTransmitter none) hstate hx hsending hl))
  · exact exec_frameSent_of_frame ht (State.transmitted_exported f |>.trans
      ((State.exportSent_of_last (s := s.setTransmitter none) hstate hx hsending hl).trans
        (State.backToHeld_of_kept (s := s.setTransmitter none) hp)))
  · refine ⟨_, exec_frameSent_of_frame ht (State.transmitted_exported f |>.trans
      ((State.exportSent_of_last (s := s.setTransmitter none) hstate hx hsending hl).trans
        (State.backToHeld_of_pending (s := s.setTransmitter none) hp))), ?_, ?_⟩
    · exact (s.setTransmitter none).freeBank_chosen f.bank
    · exact (s.setTransmitter none).freeBank_eq f.bank
  · exact exec_frameSent_of_frame ht (State.transmitted_exported f |>.trans
      (State.exportSent_of_ended (s := s.setTransmitter none) h))
  · exact State.grant_of_response ht hb
  · rw [State.grant_of_export ht hb hf]
    exact State.grantExport_keeps f
  · have offer := State.exportOffer_of_one (State.bankOffer_of_exporting hstate hx hc hq) (State.bankOffer_of_idle hother)
    have bank : (x.frame n (s.bank n) c.span).bank = n := by rw [ExportRecord.frame_eq]
    rw [State.grant_of_export ht hb offer, State.grantExport, State.exportBegins_of_exporting (by rw [bank]; exact hx),
      bank, ExportRecord.frame_levels_length, ExportRecord.frame_eq]
    cases n <;> rfl
  · rw [State.grant_of_report ht hb hf, if_pos (State.reportOffered_iff.2 ⟨hd, hr⟩)]
    exact State.grantReport_takes hr
  · rw [State.grant_of_report ht hb hf, if_neg]
    rw [State.reportOffered_iff]
    rintro ⟨hd, hr⟩
    rcases h with h | h
    · cases hd.symm.trans h
    · exact hr h
  · exact (State.dispatchBehind_takes _).1 h
  · exact (State.dispatchBehind_takes _).2 hd hq

end Sys2Proof.Machine

/-! Proofs of the statements about the optical selector, the settle timer and the thermal gate. -/

namespace Sys2Proof.Machine

/-! ### The selector (R42 to R44) -/

section

variable {s : State} {p : SelPort} {sel : Selector}

/-- The end of a selector request that no sweep in SELECTING waits for (R44). -/
theorem State.selectorSettles_of_free (h : s.engine.state ≠ .selecting ∨ s.context = none) :
    s.selectorSettles p sel = { s with engine := { s.engine with selector := sel, selectorTimer := none } } := by
  unfold State.selectorSettles State.selectorLeft
  split
  next => rfl
  next c hc =>
    have hstate : s.engine.state ≠ .selecting := h.resolve_right fun hnone => by
      cases hnone.symm.trans hc
    exact if_neg (by simpa using hstate)

section

variable {c : SweepContext} (h : s.engine.state = .selecting) (hc : s.context = some c)

include h hc

theorem State.selectorLeft_of_selecting :
    s.selectorLeft p =
      if s.engine.selector = .unknown ∧ p = c.port then s.decideOutcome .noPort else s.select c := by
  simp [State.selectorLeft, hc, h]

/-- The end of a selector request that a sweep in SELECTING waits for (R44). -/
theorem State.selectorSettles_of_selecting :
    s.selectorSettles p sel =
      if sel = .unknown ∧ p = c.port then
        (s.withEngine { s.engine with selector := sel, selectorTimer := none }).decideOutcome .noPort
      else (s.withEngine { s.engine with selector := sel, selectorTimer := none }).select c := by
  exact State.selectorLeft_of_selecting (s := s.withEngine { s.engine with selector := sel, selectorTimer := none }) h hc

/-- A sweep in SELECTING whose port is set goes on to SETTLING (R43, R45). -/
theorem State.selectorSettles_of_set (hp : c.port = p) :
    s.selectorSettles p (.atPort p false) =
      { s with
        engine :=
          { s.engine with
            selector := .atPort p false, selectorTimer := none, state := .settling
            settleTimer := some c.settings.settleTime } } := by
  have selects := State.select_selects (c := c)
    (s := s.withEngine { s.engine with selector := .atPort p false, selectorTimer := none }) h
  rw [State.selectorSettles_of_selecting h hc, if_neg (by simp)]
  exact selects.2.1 (by rw [hp]; rfl)

/-- A sweep in SELECTING that waits for another port sends its own SELECT (R43, R44). -/
theorem State.selectorSettles_of_other (hsel : sel = .unknown ∨ sel = .atPort p false) (hp : c.port ≠ p) :
    s.selectorSettles p sel =
      { s with
        engine :=
          { s.engine with selector := .moving c.port, selectorTimer := some s.engine.selectorTimeout }
        outputs := { s.outputs with selects := s.outputs.selects ++ [c.port] } } := by
  have selects := State.select_selects (c := c)
    (s := s.withEngine { s.engine with selector := sel, selectorTimer := none }) h
  rw [State.selectorSettles_of_selecting h hc, if_neg fun hno => hp hno.2.symm]
  refine selects.2.2.2 (hsel.imp (fun hu => hu) fun ha => ⟨p, false, ha, hp.symm⟩)

/-- A sweep in SELECTING whose own request fails ends NO_PORT (R44, R53). -/
theorem State.selectorSettles_of_failed (hp : c.port = p) :
    s.selectorSettles p .unknown =
      { s with
        engine := ({ s.engine with selector := .unknown, selectorTimer := none } : Engine).decided .noPort
        port := s.port.discardSweep } := by
  rw [State.selectorSettles_of_selecting h hc, if_pos ⟨rfl, hp.symm⟩]
  rfl

end

theorem State.selector_ignored (h : ∀ p, s.engine.selector ≠ .moving p) (q : Byte) :
    s.selectorSet q = s ∧ s.selectorFault = s ∧ s.selectorExpires = s := by
  unfold State.selectorSet State.selectorFault State.selectorExpires
  cases hs : s.engine.selector with
  | moving p => exact absurd hs (h p)
  | unknown => exact ⟨rfl, rfl, rfl⟩
  | atPort p settled => exact ⟨rfl, rfl, rfl⟩

theorem State.selectorSet_of_port (h : s.engine.selector = .moving p) {q : Byte} (hq : p.val = q.toNat) :
    s.selectorSet q = s.selectorSettles p (.atPort p false) := by
  simp [State.selectorSet, h, hq]

/-- The ways in which a selector request fails (R42). -/
theorem exec_selectorFails {i : Instr} (h : s.engine.selector = .moving p)
    (hi : (∃ q : Byte, i = .setReply q ∧ q.toNat ≠ p.val) ∨ i = .faultReply ∨
      (i = .selectorTimerExpiry ∧ s.engine.selectorTimer.isSome = true)) :
    exec i s = .next (s.selectorFails p) := by
  rcases hi with ⟨q, rfl, hq⟩ | rfl | ⟨rfl, ht⟩
  · have fails : s.selectorSet q = s.selectorFails p := by simp [State.selectorSet, h, hq]
    exact congrArg Host.Outcome.next fails
  · have fails : s.selectorFault = s.selectorFails p := by simp [State.selectorFault, h]
    exact congrArg Host.Outcome.next fails
  · obtain ⟨n, hn⟩ := Option.isSome_iff_exists.1 ht
    have fails : s.selectorExpires = s.selectorFails p := by simp [State.selectorExpires, h, hn]
    exact congrArg Host.Outcome.next fails

end

/-- Settles O42: a request ends with a selector state, and the sweep in SELECTING decides what follows. -/
theorem selectorRepliesEndTheRequest : Obligations.SelectorRepliesEndTheRequest := by
  refine ⟨fun q s => ⟨fun h => ?_, fun p hm hq => ⟨fun h => ?_, fun c h hc => ⟨fun hp => ?_, fun hp => ?_⟩⟩⟩,
    fun i p s hm hi => ⟨fun h => ?_, fun c h hc => ⟨fun hp => ?_, fun hp => ?_⟩⟩⟩
  · obtain ⟨set, fault, expires⟩ := State.selector_ignored h q
    exact ⟨congrArg Host.Outcome.next set, congrArg Host.Outcome.next fault, congrArg Host.Outcome.next expires⟩
  · exact congrArg Host.Outcome.next ((State.selectorSet_of_port hm hq).trans (State.selectorSettles_of_free h))
  · exact congrArg Host.Outcome.next ((State.selectorSet_of_port hm hq).trans (State.selectorSettles_of_set h hc hp))
  · exact congrArg Host.Outcome.next
      ((State.selectorSet_of_port hm hq).trans (State.selectorSettles_of_other h hc (.inr rfl) hp))
  · exact (exec_selectorFails hm hi).trans (congrArg Host.Outcome.next
      (State.selectorSettles_of_free (s := s.raise .selectorFault) h))
  · exact (exec_selectorFails hm hi).trans (congrArg Host.Outcome.next
      (State.selectorSettles_of_failed (s := s.raise .selectorFault) h hc hp))
  · exact (exec_selectorFails hm hi).trans (congrArg Host.Outcome.next
      (State.selectorSettles_of_other (s := s.raise .selectorFault) h hc (.inl rfl) hp))

/-! ### The settle timer (R45, R46) -/

/-- With no shot outstanding the FIFO alone decides the admission (R67). -/
theorem State.admits_of_nil {s : State} (h : s.port.outstanding = []) (n : Nat) :
    s.Admits n ↔ s.port.fifo.length + n ≤ 32768 := by
  simp [State.Admits, Port.expected, h]

theorem State.not_admits_of_lt {s : State} {n : Nat} (h : 32768 < s.port.fifo.length + n) : ¬s.Admits n := by
  unfold State.Admits
  omega

theorem State.settleExpires_of_stopped {s : State} (h : s.engine.state ≠ .settling ∨ s.engine.settleTimer = none) :
    s.settleExpires = s := by
  unfold State.settleExpires
  split
  next hstate htimer _ =>
    rcases h with h | h
    · exact absurd hstate h
    · cases h.symm.trans htimer
  next => rfl

/-- The state that enters DARK_CHECK (R45). -/
def State.darkChecking (s : State) (c : SweepContext) : State :=
  { s with
    engine := { s.engine with state := .darkCheck, selector := .atPort c.port true, settleTimer := none } }

theorem State.settleExpires_of_running {s : State} {n : Nat} {c : SweepContext} (h : s.engine.state = .settling)
    (ht : s.engine.settleTimer = some n) (hc : s.context = some c) : s.settleExpires = (s.darkChecking c).retest := by
  simp only [State.settleExpires, h, ht, hc]
  rfl

/-- Settles O43: an expiry enters DARK_CHECK, and the test of R46 decides on the dark FIRE. -/
theorem settleExpiryEntersDarkCheck : Obligations.SettleExpiryEntersDarkCheck := by
  intro s
  refine ⟨fun h => congrArg Host.Outcome.next (State.settleExpires_of_stopped h), fun c n h ht hc => ?_⟩
  have running := State.settleExpires_of_running h ht hc
  obtain ⟨fires, waits, -⟩ := (s.darkChecking c).retest_tested.2 c hc
  refine ⟨fun hnil hroom => congrArg Host.Outcome.next (running.trans ?_),
    fun hfull => congrArg Host.Outcome.next (running.trans (waits rfl (hfull.imp_right State.not_admits_of_lt)))⟩
  rw [fires rfl hnil ((State.admits_of_nil (s := s.darkChecking c) hnil _).2 hroom)]
  have list : (s.darkChecking c).port.outstanding = [] := hnil
  rw [State.fired, list]
  rfl

/-! ### The thermal gate (R77, R52) -/

section

variable {s : State} {x : Int}

theorem State.statusArrives_of_range (h : x < -40 ∨ 125 < x) : s.statusArrives x = s := by
  rw [State.statusArrives, if_pos h]

theorem State.statusArrives_of_cool (hg : s.port.gate = .cool) (h : x < s.port.hotLimit) : s.statusArrives x = s := by
  unfold State.statusArrives
  rw [hg]
  dsimp only
  rw [if_neg (not_le.2 h), ite_self]

theorem State.statusArrives_of_hot (hg : s.port.gate = .hot) (h : s.port.coolLimit < x) : s.statusArrives x = s := by
  unfold State.statusArrives
  rw [hg]
  dsimp only
  rw [if_neg (not_le.2 h), ite_self]

/-- The state whose gate has turned HOT (R77). -/
def State.heated (s : State) : State :=
  { s with port := { s.port with gate := .hot }, notices := s.notices.raised .thermal }

theorem State.statusArrives_heats (hlo : -40 ≤ x) (hhi : x ≤ 125) (hg : s.port.gate = .cool)
    (h : s.port.hotLimit ≤ x) : s.statusArrives x = s.heated.retest := by
  rw [State.statusArrives, if_neg (by omega)]
  simp only [hg, h, if_true]
  rfl

/-- The state whose gate has turned COOL, with HOT_HOLD left for FIRING (R52, R77). -/
def State.cooled (s : State) : State :=
  { s with
    port := { s.port with gate := .cool }
    engine :=
      if s.engine.state = .hotHold then { s.engine with state := .firing, hotHoldTimer := false } else s.engine }

theorem State.statusArrives_cools (hlo : -40 ≤ x) (hhi : x ≤ 125) (hg : s.port.gate = .hot)
    (h : x ≤ s.port.coolLimit) : s.statusArrives x = s.cooled.retest := by
  rw [State.statusArrives, if_neg (by omega)]
  simp only [hg, h, if_true, State.resumeFiring, State.cooled, State.withPort_engine, beq_iff_eq]
  split <;> rfl

/-- Neither a dark FIRE nor a FIRE can leave, and the gate holds nothing up (R46, R49). -/
theorem State.retest_of_quiet (h : s.engine.state ≠ .firing)
    (hd : s.engine.state ≠ .darkCheck ∨ s.port.outstanding ≠ []) : s.retest = s := by
  obtain ⟨still, tested⟩ := s.retest_tested
  cases hc : s.context with
  | none => exact still (.inl hc)
  | some c =>
    by_cases hstate : s.engine.state = .darkCheck
    · exact (tested c hc).2.1 hstate (.inl (hd.resolve_left fun hno => hno hstate))
    · exact still (.inr ⟨hstate, h⟩)

/-- In FIRING a gate that is HOT turns a FIRE that is due into HOT_HOLD, and the second test finds HOT_HOLD (R49, R52). -/
theorem State.retest_of_hot {c : SweepContext} (h : s.engine.state = .firing) (hc : s.context = some c)
    (hg : s.port.gate = .hot) :
    (s.FireIsDue c → s.retest = { s with engine := { s.engine with state := .hotHold, hotHoldTimer := true } }) ∧
      (¬s.FireIsDue c → s.retest = s) := by
  obtain ⟨u, first, second⟩ := (s.retest_tested.2 c hc).2.2 h
  refine ⟨fun due => ?_, fun idle => ?_⟩
  · have hu := first.2.2 h due hg
    rw [second.1 (.inl (by rw [hu]; simp)), hu]
  · have hu := first.1 (.inr idle)
    rw [hu] at second
    exact second.1 (.inr idle)

theorem State.hotHoldExpires_of_stopped (h : s.engine.state ≠ .hotHold ∨ s.engine.hotHoldTimer = false) :
    s.hotHoldExpires = s := by
  unfold State.hotHoldExpires
  rw [if_neg]
  rw [Bool.and_eq_true, beq_iff_eq]
  rintro ⟨hstate, htimer⟩
  rcases h with h | h
  · exact h hstate
  · cases h.symm.trans htimer

theorem State.hotHoldExpires_of_running (h : s.engine.state = .hotHold) (ht : s.engine.hotHoldTimer = true) :
    s.hotHoldExpires = s.decideOutcome .hot := by
  simp [State.hotHoldExpires, h, ht]

end

/-- Settles O44: the gate by its hysteresis, and what the test of the firing conditions finds at either turn. -/
theorem thermalGateFollowsTheTemperature : Obligations.ThermalGateFollowsTheTemperature := by
  intro x s
  have status : ∀ {t : State}, s.statusArrives x = t → exec (.statusWord x) s = .next t := fun h =>
    congrArg Host.Outcome.next h
  refine ⟨fun h => status (State.statusArrives_of_range h), fun hg h => status (State.statusArrives_of_cool hg h),
    fun hg h => status (State.statusArrives_of_hot hg h), fun hlo hhi hg h hf hd => ?_, fun c hlo hhi hg h hf hc => ?_,
    fun hlo hhi hg h => ?_, fun hlo hhi hg h => ?_, fun h ht => ?_, fun h => ?_⟩
  · exact status ((State.statusArrives_heats hlo hhi hg h).trans (State.retest_of_quiet (s := s.heated) hf hd))
  · obtain ⟨holds, idle⟩ := State.retest_of_hot (s := s.heated) hf hc rfl
    refine status ((State.statusArrives_heats hlo hhi hg h).trans ?_)
    split
    next due => exact holds due
    next hno => exact idle hno
  · exact ⟨_, status (State.statusArrives_heats hlo hhi hg h), s.heated.retest_tested⟩
  · exact ⟨_, status (State.statusArrives_cools hlo hhi hg h), s.cooled.retest_tested⟩
  · exact congrArg Host.Outcome.next (State.hotHoldExpires_of_running h ht)
  · exact congrArg Host.Outcome.next (State.hotHoldExpires_of_stopped h)

end Sys2Proof.Machine

/-! Proofs of the statements about the words of the front end, lost shots and the summing into the banks. -/

namespace Sys2Proof.Machine

/-! ### Headers and samples (R68, R69, R71) -/

section

variable {s : State}

/-- No entry of the outstanding list has the tag, so a filter by the tag keeps it whole. -/
theorem Port.without_of_none {p : Port} {tag : Byte} (h : p.shot tag = none) :
    p.outstanding.filter (fun x => x.tag != tag) = p.outstanding := by
  rw [List.filter_eq_self]
  intro x hx
  have := List.find?_eq_none.1 h x hx
  simpa using this

/-- The state whose open block and its entry have gone, with the samples (R70, R71). -/
def State.dropped (s : State) (b : OpenBlock) : State :=
  { s with port := { s.port with
    intake := .noBlock, outstanding := s.port.outstanding.filter fun x => x.tag != b.tag
    fifo := s.port.fifo.take (s.port.fifo.length - b.count) } }

theorem State.tear_of_none {b : OpenBlock} (h : s.port.shot b.tag = none) : s.tear b = s.dropped b := by
  rw [State.tear, h, State.dropped, Port.without_of_none h]
  rfl

theorem State.headerArrives_of_closed (h : ∀ b, s.port.intake ≠ .opened b) (tag : Byte) (bins : Half) :
    s.headerArrives tag bins = s.withPort (s.port.takeHeader tag bins) := by
  unfold State.headerArrives
  split
  next b hb => exact absurd hb (h b)
  next => rfl

theorem State.headerArrives_of_opened {b : OpenBlock} (h : s.port.intake = .opened b) (tag : Byte) (bins : Half) :
    s.headerArrives tag bins = (s.tear b).withPort ((s.tear b).port.takeHeader tag bins) := by
  simp only [State.headerArrives, h]

theorem State.sampleArrives_of_closed (h : ∀ b, s.port.intake ≠ .opened b) (level : Half) :
    s.sampleArrives level = s := by
  unfold State.sampleArrives
  split
  next b hb => exact absurd hb (h b)
  next => rfl

theorem State.sampleArrives_of_none {b : OpenBlock} (h : s.port.intake = .opened b) (hx : s.port.shot b.tag = none)
    (level : Half) : s.sampleArrives level = s := by
  simp only [State.sampleArrives, h, hx]

theorem State.sampleArrives_of_opened {b : OpenBlock} {x : Shot} (h : s.port.intake = .opened b)
    (hx : s.port.shot b.tag = some x) (level : Half) :
    s.sampleArrives level =
      if b.count < x.bins then
        s.withPort { s.port with fifo := s.port.fifo ++ [level], intake := .opened (b.take x.dark level) }
      else s.withPort { s.port with intake := .opened { b with overLength := true } } := by
  simp only [State.sampleArrives, h, hx]

end

/-- Settles O45: the tear comes before the header, so the header is taken in the state that the judgement leaves. -/
theorem headerAndSampleAreTaken : Obligations.HeaderAndSampleAreTaken := by
  intro tag bins level s
  refine ⟨fun h => ⟨⟨_, congrArg Host.Outcome.next (State.headerArrives_of_closed h tag bins), s.takeHeader_headed tag bins⟩,
    congrArg Host.Outcome.next (State.sampleArrives_of_closed h level)⟩, fun b h => ⟨fun hx => ⟨?_, ?_⟩, fun x hx =>
      ⟨?_, fun hlt => ?_, fun hle => ?_⟩⟩⟩
  · have header := State.headerArrives_of_opened h tag bins
    rw [State.tear_of_none hx] at header
    exact ⟨_, congrArg Host.Outcome.next header, (s.dropped b).takeHeader_headed tag bins⟩
  · exact congrArg Host.Outcome.next (State.sampleArrives_of_none h hx level)
  · exact ⟨s.tear b, _, State.tear_rejected hx, congrArg Host.Outcome.next (State.headerArrives_of_opened h tag bins),
      (s.tear b).takeHeader_headed tag bins⟩
  · exact congrArg Host.Outcome.next ((State.sampleArrives_of_opened h hx level).trans (if_pos hlt))
  · exact congrArg Host.Outcome.next ((State.sampleArrives_of_opened h hx level).trans (if_neg (Nat.not_lt.2 hle)))

/-! ### The judgement of a block (R70) -/

/-- The open block does not have the samples that its entry expects (R70). -/
def OpenBlock.Torn (b : OpenBlock) (x : Shot) : Prop :=
  b.overLength = true ∨ b.count ≠ x.bins ∨ b.headerBins ≠ x.bins

section

variable {b : OpenBlock} {x : Shot} {saturated : Bool}

theorem OpenBlock.torn_iff : (b.overLength || b.count != x.bins || b.headerBins != x.bins) = true ↔ b.Torn x := by
  simp only [Bool.or_eq_true, bne_iff_ne, OpenBlock.Torn, or_assoc]

theorem judgeBlock_of_torn (h : b.Torn x) : judgeBlock x b saturated = .torn := by
  rw [judgeBlock, if_pos (OpenBlock.torn_iff.2 h)]

theorem judgeBlock_of_saturated (h : ¬b.Torn x) (hs : saturated = true) : judgeBlock x b saturated = .saturated := by
  rw [judgeBlock, if_neg (mt OpenBlock.torn_iff.1 h), if_pos hs]

theorem judgeBlock_of_good (h : ¬b.Torn x) (hs : saturated = false) :
    judgeBlock x b saturated = .accepted (if x.dark then b.darkSum / x.bins else 0) := by
  rw [judgeBlock, if_neg (mt OpenBlock.torn_iff.1 h), if_neg (by simp [hs])]

end

section

variable {s : State} {b : OpenBlock} {x : Shot} {j : Judgement}

/-- The samples of a block that is not to be summed leave the FIFO (R70, R76). -/
theorem State.judged_of_dropped (h : j.accumulates x = false ∨ s.engine.bank = none) :
    s.withPort (s.port.judged x b j s.engine.bank) = s.dropped b := by
  unfold Port.judged
  split
  next hj hn =>
    rcases h with h | h
    · exact absurd (h.symm.trans hj) Bool.false_ne_true
    · cases h.symm.trans hn
  next => rfl

theorem State.judged_of_joined {n : BankName} (h : j.accumulates x = true) (hn : s.engine.bank = some n) :
    s.port.judged x b j s.engine.bank =
      { s.port with
        intake := .noBlock, outstanding := s.port.outstanding.filter fun y => y.tag != b.tag
        accumulation := s.port.accumulation ++
          [{ tag := x.tag, bins := x.bins, bank := n, summed := 0, counted := true }] } := by
  simp only [Port.judged, h, hn]
  rfl

theorem Judgement.accumulates_of_discard (h : x.discard = true) : j.accumulates x = false := by
  cases j <;> simp [Judgement.accumulates, h]

theorem State.trailerArrives_of_opened (saturated : Bool) (h : s.port.intake = .opened b)
    (hx : s.port.shot b.tag = some x) :
    s.trailerArrives saturated =
      (s.withPort (s.port.judged x b (judgeBlock x b saturated) s.engine.bank)).deliver x.dark
        (judgeBlock x b saturated) := by
  simp only [State.trailerArrives, h, hx]

/-- A judgement does not count in DRAINING (R54). -/
theorem State.not_counts_of_draining {dark : Bool} (h : s.engine.state = .draining) : ¬s.Counts dark := by
  simp [State.Counts, h]

end

/-- The mean is asked for of a dark block alone (R75). -/
theorem Accepted.of_not_dark {s t : State} {m : Nat} (h : Accepted s t false m) (m' : Nat) : Accepted s t false m' := by
  obtain ⟨uncounted, counted⟩ := h
  refine ⟨uncounted, fun c hc hcounts => ?_⟩
  obtain ⟨accepted, -, -⟩ := counted c hc hcounts
  exact ⟨accepted, fun hd => (Bool.false_ne_true hd).elim, fun hd => (Bool.false_ne_true hd).elim⟩

/-- Settles O46: the judgement by its three tests, the port by whether the block is to be summed, and the engine by its
rule for the judgement. -/
theorem trailerJudgesTheBlock : Obligations.TrailerJudgesTheBlock := by
  intro saturated s
  refine ⟨fun h => ?_, fun h => ?_, fun b x h hx => ?_⟩
  · exact congrArg Host.Outcome.next (by simp only [State.trailerArrives, h]; rfl)
  · exact congrArg Host.Outcome.next (by simp only [State.trailerArrives, h]; rfl)
  have arrives := State.trailerArrives_of_opened saturated h hx
  refine ⟨fun hd hdiscard => congrArg Host.Outcome.next ?_, fun hbad => ?_, fun ⟨htorn, hs⟩ hx' => ?_,
    fun n ⟨htorn, hs⟩ hdark hdiscard hn => ?_⟩
  · rw [State.judged_of_dropped (.inl (Judgement.accumulates_of_discard hdiscard))] at arrives
    exact arrives.trans (State.deliver_uncounted (s := s.dropped b) (.inr (State.not_counts_of_draining hd)) _)
  · by_cases htorn : b.Torn x
    · rw [judgeBlock_of_torn htorn, State.judged_of_dropped (.inl rfl)] at arrives
      have atOnce : (x.dark = true ∧ ¬b.Torn x) = False := by simp [htorn]
      refine ⟨_, congrArg Host.Outcome.next arrives, ?_⟩
      change Rejected _ _ _ (x.dark = true ∧ ¬b.Torn x)
      rw [atOnce]
      exact State.deliver_torn (s.dropped b) x.dark
    · have hs : saturated = true := by
        rw [← Bool.not_eq_false]
        exact fun hs => hbad ⟨htorn, hs⟩
      rw [judgeBlock_of_saturated htorn hs, State.judged_of_dropped (.inl rfl)] at arrives
      have atOnce : (x.dark = true ∧ ¬b.Torn x) = (x.dark = true) := by simp [htorn]
      refine ⟨_, congrArg Host.Outcome.next arrives, ?_⟩
      change Rejected _ _ _ (x.dark = true ∧ ¬b.Torn x)
      rw [atOnce]
      exact State.deliver_saturated (s.dropped b) x.dark
  · have gone : (Judgement.accepted (if x.dark then b.darkSum / x.bins else 0)).accumulates x = false ∨
        s.engine.bank = none := by
      rcases hx' with hdark | hdiscard | hn
      · exact .inl (by simp [Judgement.accumulates, hdark])
      · exact .inl (Judgement.accumulates_of_discard hdiscard)
      · exact .inr hn
    rw [judgeBlock_of_good htorn hs, State.judged_of_dropped gone] at arrives
    refine ⟨_, congrArg Host.Outcome.next arrives, ?_⟩
    cases hdark : x.dark with
    | true => exact State.deliver_accepted (s.dropped b) true _
    | false => exact (State.deliver_accepted (s.dropped b) false _).of_not_dark _
  · rw [judgeBlock_of_good htorn hs, hdark,
      State.judged_of_joined (by simp [Judgement.accumulates, hdark, hdiscard]) hn] at arrives
    exact ⟨_, congrArg Host.Outcome.next arrives, State.deliver_accepted _ false 0⟩

/-! ### Lost shots (R72, R48) -/

section

variable {s : State} {tag : Byte}

theorem State.shotExpires_of_none (h : s.port.shot tag = none) : s.shotExpires tag = s := by
  rw [State.shotExpires, h]

theorem State.shotExpires_of_shot {x : Shot} (h : s.port.shot tag = some x) :
    s.shotExpires tag = (s.withPort (s.port.lose tag)).deliver x.dark .lost := by
  rw [State.shotExpires, h]

/-- The tallies with one more shot lost (R48). -/
def SweepContext.lostOnce (c : SweepContext) : SweepContext :=
  { c with lost := if c.lost < 65535 then c.lost + 1 else c.lost, consecutiveLost := c.consecutiveLost + 1 }

theorem SweepContext.tally_lost (c : SweepContext) (dark : Bool) : c.tally dark .lost = c.lostOnce := rfl

theorem State.setContext_withPort (s : State) (p : Port) (c : SweepContext) :
    (s.withPort p).setContext c = (s.setContext c).withPort p := by
  unfold State.setContext
  change (match s.engine.bank with | some n => _ | none => _) = _
  cases s.engine.bank with
  | none => rfl
  | some n => cases n <;> rfl

variable {dark : Bool} {c : SweepContext} (hc : s.context = some c) (h : s.Counts dark)

include hc h

/-- The third loss in a row ends the sweep MUTE (R48). -/
theorem State.deliver_lost_of_third (hl : 2 ≤ c.consecutiveLost) :
    s.deliver dark .lost =
      { s.setContext c.lostOnce with
        port := s.port.discardSweep, engine := s.engine.decided .mute
        notices := s.notices.raised .frontEndMute } := by
  have mute : c.lostOnce.outcomeOf dark .lost = some .mute := if_pos (Nat.succ_le_succ hl)
  have taken : s.takeJudgement c dark .lost = (s.setContext c.lostOnce).endByJudgement .mute := by
    unfold State.takeJudgement
    rw [SweepContext.tally_lost, mute]
  rw [State.deliver_counted hc h, taken, State.endByJudgement, if_pos rfl, State.decideOutcome_eq, State.setContext_engine, State.setContext_port]
  apply State.ext_fields <;> simp [State.raise, Notices.raised]

theorem State.deliver_lost_of_more (hl : c.consecutiveLost < 2) :
    Tested (s.setContext c.lostOnce) (s.deliver dark .lost) := by
  have more : c.lostOnce.outcomeOf dark .lost = none := if_neg (Nat.not_le.2 (Nat.succ_lt_succ hl))
  have taken : s.takeJudgement c dark .lost = (s.setContext c.lostOnce).retest := by
    unfold State.takeJudgement
    rw [SweepContext.tally_lost, more]
    cases dark <;> rfl
  rw [State.deliver_counted hc h, taken]
  exact State.retest_tested _

end

/-- Settles O47: the port loses the shot first, and the engine takes the loss when it counts. -/
theorem shotTimerExpiryLosesTheShot : Obligations.ShotTimerExpiryLosesTheShot := by
  intro tag s
  refine ⟨fun h => congrArg Host.Outcome.next (State.shotExpires_of_none h), fun x hx => ?_⟩
  have expires := State.shotExpires_of_shot hx
  refine ⟨fun h => congrArg Host.Outcome.next (expires.trans ?_), fun c hc hcounts => ⟨fun hl => ?_, fun hl => ?_⟩⟩
  · refine State.deliver_uncounted (s := s.withPort (s.port.lose tag)) ?_ _
    rcases h with h | h | h
    · exact .inr (State.not_counts_of_draining h)
    · exact .inl h
    · exact .inr h
  · refine congrArg Host.Outcome.next (expires.trans ?_)
    rw [State.deliver_lost_of_third (s := s.withPort (s.port.lose tag)) hc hcounts hl, State.setContext_withPort]
    rfl
  · have tested := State.deliver_lost_of_more (s := s.withPort (s.port.lose tag)) hc hcounts hl
    rw [State.setContext_withPort] at tested
    exact ⟨_, congrArg Host.Outcome.next expires, tested⟩

/-! ### Summing (R74, R76) -/

section

variable {s : State}

theorem State.sumSample_of_empty (h : s.port.accumulation = [] ∨ s.port.fifo = []) : s.sumSample = s := by
  unfold State.sumSample
  split
  next ha hf => rcases h with h | h <;> simp_all
  next => rfl

variable {head : AccumBlock} {rest : List AccumBlock} (ha : s.port.accumulation = head :: rest)

include ha

theorem State.sumSample_of_block {level : Half} {fifo : List Half} (hf : s.port.fifo = level :: fifo) :
    s.sumSample =
      if head.summed < head.bins then
        ((s.addToBank head.bank head.summed level).withPort
          { s.port with accumulation := head.advance ++ rest, fifo := fifo }).retest
      else s := by
  simp only [State.sumSample, ha, hf]

theorem State.completeAccumulation_of_block :
    s.completeAccumulation =
      if head.bins - head.summed = 0 then
        ((s.setBank head.bank
          { s.bank head.bank with
            accepted := (s.bank head.bank).accepted + (if head.counted then 1 else 0) }).withPort
          { s.port with accumulation := rest }).retest
      else s := by
  simp only [State.completeAccumulation, ha]
  rfl

end

theorem AccumBlock.advance_append (b : AccumBlock) (rest : List AccumBlock) :
    b.advance ++ rest =
      if b.counted = false ∧ b.bins - b.summed = 1 then rest else { b with summed := b.summed + 1 } :: rest := by
  unfold AccumBlock.advance AccumBlock.left
  cases b.counted
  · by_cases h : b.bins - b.summed = 1 <;> simp [h]
  · simp

/-- A level added to a bank changes one bin of its sums (R74). -/
theorem Sums.read_add {m : Sums} (h : m.wf = true) (i j : Nat) (level : Half) :
    (m.add i level).read j = if j = i then m.read j + level.setWidth 32 else m.read j := by
  rw [Sums.add, Sums.read_write h]
  split
  next hj => rw [hj]
  next => rfl

/-- The state with one sample of the head block added to its bank (R74). -/
def State.summedOnce (s : State) (head : AccumBlock) (rest : List AccumBlock) (level : Half) (fifo : List Half) : State :=
  (s.addToBank head.bank head.summed level).withPort
    { s.port with accumulation := head.advance ++ rest, fifo := fifo }

/-- Settles O48: one bin of the sums changes, in canonical form, and the list by the head's own advance. -/
theorem summingFillsTheBank : Obligations.SummingFillsTheBank := by
  intro s
  refine ⟨fun h => congrArg Host.Outcome.next (State.sumSample_of_empty h), fun h => ?_, fun head rest ha =>
    ⟨fun level fifo hf hle => ?_, fun level fifo hf hlt hwf => ?_, fun hlt => ?_, fun hle => ?_⟩⟩
  · exact congrArg Host.Outcome.next (by simp [State.completeAccumulation, h])
  · exact congrArg Host.Outcome.next ((State.sumSample_of_block ha hf).trans (if_neg (Nat.not_lt.2 hle)))
  · have bank : (s.summedOnce head rest level fifo).bank head.bank =
        { s.bank head.bank with sums := (s.bank head.bank).sums.add head.summed level } := by
      rw [State.summedOnce, State.addToBank]
      exact State.bank_setBank s head.bank _
    refine ⟨s.summedOnce head rest level fifo, _,
      congrArg Host.Outcome.next ((State.sumSample_of_block ha hf).trans (if_pos hlt)), State.retest_tested _,
      fun j => ?_, ?_, ?_⟩
    · rw [bank]
      exact Sums.read_add hwf _ _ _
    · rw [bank]
      rfl
    · rw [← AccumBlock.advance_append]
      rfl
  · refine congrArg Host.Outcome.next ((State.completeAccumulation_of_block ha).trans (if_neg ?_))
    omega
  · refine ⟨_, congrArg Host.Outcome.next ((State.completeAccumulation_of_block ha).trans (if_pos ?_)),
      State.retest_tested _⟩
    omega

end Sys2Proof.Machine

/-! What the engine's own events do: the start of a sweep, its completion and its closing actions. -/

namespace Sys2Proof.Machine

/-! ### The completion of a sweep -/

theorem State.completes_iff {s : State} {c : SweepContext} :
    s.completes c = true ↔ s.engine.state = .firing ∧ c.settings.shotCount ≤ c.accepted ∧
      c.settings.shotCount ≤ (s.bank c.bank).accepted := by
  simp [State.completes, SweepContext.full, and_assoc]

theorem State.sweepComplete_of_incomplete {s : State} {c : SweepContext} (hc : s.context = some c)
    (h : s.completes c = false) : s.sweepComplete = s := by
  unfold State.sweepComplete
  cases s.engine.bank <;> simp [hc, h]

theorem State.sweepComplete_of_noContext {s : State} (hc : s.context = none) : s.sweepComplete = s := by
  unfold State.sweepComplete
  cases s.engine.bank <;> simp [hc]

/-- The bank is FULL and last in the ready list, and nothing else of the banks moves (R51, R82). -/
theorem State.fillBank_fills (s : State) (n : BankName) :
    (s.fillBank n).bank n = { s.bank n with state := .full } ∧
    (s.fillBank n).bank (otherBank n) = s.bank (otherBank n) ∧
    (s.fillBank n).banks.ready = s.banks.ready ++ [n] ∧
    (s.fillBank n).banks.retainSlot = s.banks.retainSlot ∧
    (s.fillBank n).banks.holdLimit = s.banks.holdLimit := by
  cases n <;> exact ⟨rfl, rfl, rfl, rfl, rfl⟩

/-- The completion of a sweep that is complete: the bank FULL, the engine without a sweep, the end told, the choice. -/
theorem State.sweepComplete_completes {s : State} {n : BankName} {c : SweepContext} (hn : s.engine.bank = some n)
    (hc : s.context = some c) (h : s.completes c = true) :
    s.sweepComplete = ((s.fillBank n).dropSweep.sweepEnded).choose := by
  simp [State.sweepComplete, hn, hc, h]

theorem State.bank_chosenEnd (s : State) (n m : BankName) :
    ((s.fillBank n).dropSweep.sweepEnded).choose.bank m = (s.fillBank n).bank m :=
  State.bank_congr (by simp) m

/-- The engine holds no sweep, so its choice is a fresh one (R38, R51). -/
theorem State.engine_chosenEnd (s : State) (n : BankName) :
    ((s.fillBank n).dropSweep.sweepEnded).choose.engine =
      { s.engine with
        state := if ((s.fillBank n).dropSweep.sweepEnded).choose.sourceExists = true then .waiting else .idle
        bank := none, outcome := none } := by
  obtain ⟨_, hfree⟩ := ((s.fillBank n).dropSweep.sweepEnded).choose_chosen
  have he : ((s.fillBank n).dropSweep.sweepEnded).engine =
      { s.engine with state := .idle, bank := none, outcome := none } := by
    simp [State.dropSweep]
  have hidle : ((s.fillBank n).dropSweep.sweepEnded).sweepInFlight = false := by
    unfold State.sweepInFlight
    rw [he]
    rfl
  rw [hfree hidle, he]

/-- Settles O50: the completion equation, then the bank filled, the sweep's end and the choice, each by its own rule. -/
theorem sweepCompleteHandsTheBankOver : Obligations.SweepCompleteHandsTheBankOver := by
  intro s
  refine ⟨fun c hc h => congrArg (fun u : State => Host.Outcome.next u.grant) (s.sweepComplete_of_incomplete hc h),
    fun hc => congrArg (fun u : State => Host.Outcome.next u.grant) (s.sweepComplete_of_noContext hc),
    fun n c hn hc hf ha hb => ⟨s.sweepComplete, rfl, ?_⟩⟩
  rw [State.sweepComplete_completes hn hc (State.completes_iff.2 ⟨hf, ha, hb⟩)]
  obtain ⟨hbank, hother, hready, hretain, hlimit⟩ := s.fillBank_fills n
  obtain ⟨hwindow, hreports, hnotices⟩ := (s.fillBank n).dropSweep.sweepEnded_told
  simp only [State.dropSweep_frame, State.fillBank_frame] at hwindow hreports hnotices
  refine ⟨by rw [State.bank_chosenEnd, hbank], by rw [State.bank_chosenEnd, hother], by simpa using hready,
    s.engine_chosenEnd n, fun h => ?_, fun h => ?_, by simpa using hretain, by simpa using hlimit, ?_⟩
  · rw [if_neg h] at hwindow
    have hnone : (s.fillBank n).dropSweep.sweepEnded = (s.fillBank n).dropSweep := by
      simp [State.sweepEnded, h]
    rw [hnone]
    simp
  · rw [if_pos h] at hwindow hreports hnotices
    have hedge : ((s.fillBank n).dropSweep.sweepEnded).choose.reports = s.reports.edgedAll [s.window.closedEdge] := by
      simpa using hreports
    exact ⟨by simpa using hwindow, hedge, hnotices.of_congr (by simp) (by simp) (by simp) (by simp)⟩
  · apply State.ext_fields <;> simp

/-! ### Start and closing actions -/

/-- Settles O49: the start of a sweep starts one. -/
theorem sweepStartTakesTheFirstSource : Obligations.SweepStartTakesTheFirstSource :=
  fun s => ⟨s.sweepStart, rfl, s.sweepStart_starts⟩

/-- Settles O51: the closing actions are due exactly when the decided sweep has no shot outstanding. -/
theorem closingActionsEndTheSweep : Obligations.ClosingActionsEndTheSweep :=
  fun _ => ⟨fun h => congrArg (fun u : State => Host.Outcome.next u.grant) (State.closingActions_other h),
    fun _ _ _ hstate hbank houtcome hcontext hshots =>
      ⟨_, rfl, State.closingActions_closes hstate hbank houtcome hcontext hshots⟩⟩

end Sys2Proof.Machine

/-! What the analyser's events do: taking a bank, completing a sweep's analysis, completing a reanalysis. -/

namespace Sys2Proof.Machine

/-! ### The completion events -/

theorem State.analysisCompletes_of_none {s : State} (h : s.analyser.record = none) : s.analysisCompletes = s := by
  simp [State.analysisCompletes, h]

theorem State.analysisCompletes_of_reanalysis {s : State} {r : AnalysisRecord} (h : s.analyser.record = some r)
    (hk : r.kind = .reanalysis) : s.analysisCompletes = s := by
  simp [State.analysisCompletes, h, hk]

theorem State.analysisCompletes_of_sweep {s : State} {r : AnalysisRecord} (h : s.analyser.record = some r)
    (hk : r.kind = .sweep) : s.analysisCompletes = s.completeAnalysis r := by
  simp [State.analysisCompletes, h, hk]

theorem State.reanalysisCompletes_of_none {s : State} (h : s.analyser.record = none) : s.reanalysisCompletes = s := by
  simp [State.reanalysisCompletes, h]

theorem State.reanalysisCompletes_of_sweep {s : State} {r : AnalysisRecord} (h : s.analyser.record = some r)
    (hk : r.kind = .sweep) : s.reanalysisCompletes = s := by
  simp [State.reanalysisCompletes, h, hk]

theorem State.reanalysisCompletes_of_reanalysis {s : State} {r : AnalysisRecord} (h : s.analyser.record = some r)
    (hk : r.kind = .reanalysis) : s.reanalysisCompletes = s.completeReanalysis r := by
  simp [State.reanalysisCompletes, h, hk]

/-! ### The break test and the outcome (R121, R122, R129, R130) -/

/-- The break test with its tolerance as a difference, as R121 words it. -/
theorem Trace.breakTest_eq (t : Trace) (p : Profile) (launch e m : Nat) :
    t.breakTest p launch e m =
      if (e : Int) - m ≤ p.tolerance then .reached
      else if m = t.bins then .unreached
      else if m = launch then .broken
      else if (p.breakDrop : Int) ≤ (t.level (max launch (m - p.stepGap)) : Int) - t.level m then .broken
      else .fade := by
  have hreach : e ≤ m + p.tolerance ↔ (e : Int) - m ≤ p.tolerance := by omega
  exact if_congr hreach rfl rfl

/-- Only a FULL analysis scans (R118, R124). -/
theorem AnalysisRecord.scanned_eq (r : AnalysisRecord) (t : Trace) (b : Baseline) (m : Nat) :
    r.scanned t b m = if r.mode = .full then t.scanFindings r.profile b m else [] := by
  cases h : r.mode <;> simp [AnalysisRecord.scanned, h]

theorem AnalysisRecord.escalates_iff {r : AnalysisRecord} :
    r.escalates = true ↔ r.kind = .sweep ∧ r.context.cls < r.context.settings.maxClass := by
  simp [AnalysisRecord.escalates]

theorem AnalysisRecord.conclude_reached (r : AnalysisRecord) (scan : List Finding) (m : Nat) :
    r.conclude scan m .reached =
      (.analysed, { findings := scan.take 7, more := decide (7 < scan.length) }, none) := by
  simp [AnalysisRecord.conclude, formList]

theorem AnalysisRecord.conclude_fade (r : AnalysisRecord) (scan : List Finding) (m : Nat) :
    r.conclude scan m .fade =
      if r.kind = .sweep ∧ r.context.cls < r.context.settings.maxClass then
        (.escalated, .empty, some (formList scan [endFinding .unreached m]))
      else (.analysed, formList scan [endFinding .unreached m], none) := by
  simp only [AnalysisRecord.conclude, AnalysisRecord.escalates_iff]

/-! ### The obligations -/

/-- Settles O52: the taking of the next ready bank. -/
theorem analysisTakingMakesTheRecord : Obligations.AnalysisTakingMakesTheRecord :=
  fun s => ⟨s.takeReady, rfl, s.takeReady_takes⟩

/-- Settles O53: the event completes a sweep's analysis only; its parts are the end search, the break test and the
conclusion. -/
theorem analysisCompletionReportsTheSweep : Obligations.AnalysisCompletionReportsTheSweep := by
  refine ⟨fun s => ⟨fun h => ?_, fun r h hk => ?_, fun r h hk => ?_⟩, fun t p launch => t.measuredEnd_least p launch,
    fun t p launch e m => t.breakTest_eq p launch e m, fun r t => ?_⟩
  · exact congrArg (fun u : State => Host.Outcome.next u.grant) (State.analysisCompletes_of_none h)
  · exact congrArg (fun u : State => Host.Outcome.next u.grant) (State.analysisCompletes_of_reanalysis h hk)
  · obtain ⟨u, x, ends, freed, htaken, hrest⟩ := s.completeAnalysis_reports r
    exact ⟨u, s.completeAnalysis r, x, ends, freed,
      congrArg (fun u : State => Host.Outcome.next u.grant) (State.analysisCompletes_of_sweep h hk), htaken, hrest⟩
  · obtain ⟨hendOnly, hbaseline⟩ := r.analyse_concludes t
    refine ⟨hendOnly, fun b hmode hb => ?_⟩
    rw [hbaseline b hmode hb, AnalysisRecord.scanned_eq]
    cases t.breakTest r.profile r.launchUsed b.endBin (t.measuredEnd r.profile r.launchUsed) with
    | reached => exact r.conclude_reached _ _
    | unreached => rfl
    | broken => rfl
    | fade => exact r.conclude_fade _ _

/-- The deviation in a placed zone is the zone's line less the level, since the placed zones of a rising baseline are
apart (R97, R123). -/
theorem Trace.deviation_of_placed (t : Trace) {b : Baseline} {z : PlacedZone} {x : Nat} (hb : b.Rising)
    (hz : z ∈ b.placed) (hstart : z.start ≤ x) (hend : x ≤ z.zone.endBin) :
    t.deviation b.placed x = z.expected x - t.level x := by
  obtain ⟨hapart, _⟩ := Baseline.placed_apart hb
  simp [Trace.deviation, zoneAt_of_mem hapart hz hstart hend]

theorem Baseline.placed_get {b : Baseline} {k : Nat} {z : Zone} (h : b.zones[k]? = some z) :
    ∃ placed, b.placed[k]? = some placed ∧ placed.zone = z ∧ placed.index = k + 1 ∧
      (k = 0 → placed.start = b.launch) ∧
      ∀ y, 0 < k → b.zones[k - 1]? = some y → placed.start = y.endBin + 1 := by
  obtain ⟨placed, hget, hzone, hindex, hfirst, hlater⟩ := placeZones_get b.zones b.launch 1 k z h
  exact ⟨placed, hget, hzone, by omega, hfirst, hlater⟩

/-- Settles O54: the event completes a reanalysis only; the parts of the scan are the placed zones, the expected line,
the gates and the scan's own rules. -/
theorem reanalysisCompletionReportsTheTrace : Obligations.ReanalysisCompletionReportsTheTrace := by
  refine ⟨fun s => ⟨fun h => ?_, fun r h hk => ?_, fun r h hk => ?_⟩, fun _ _ _ => Baseline.placed_get,
    fun t b z x hb hz hstart hend => ⟨t.deviation_of_placed hb hz hstart hend, z.expected_line x hstart⟩,
    fun _ _ _ _ _ => gateAt_gated, fun t p b m => t.scanFindings_scans p b m⟩
  · exact congrArg (fun u : State => Host.Outcome.next u.grant) (State.reanalysisCompletes_of_none h)
  · exact congrArg (fun u : State => Host.Outcome.next u.grant) (State.reanalysisCompletes_of_sweep h hk)
  · obtain ⟨u, freed, htaken, hrest⟩ := s.completeReanalysis_reports r
    exact ⟨u, s.completeReanalysis r, freed,
      congrArg (fun u : State => Host.Outcome.next u.grant) (State.reanalysisCompletes_of_reanalysis h hk), htaken,
      hrest⟩

end Sys2Proof.Machine
